-- ==== Sys2Proof/Word.lean ====
section
/-! DEFINITION. The word types of the block: the widths the spec gives its fields, and its exact rationals. -/

namespace Sys2Proof

/-- A byte: 8 bits (R12). Bus indexes, register addresses, data bytes and channel fields are bytes (R92). -/
abbrev Byte := BitVec 8

/-- A 7-bit device address (R17, R98). -/
abbrev DevAddr := BitVec 7

/-- A 12-bit tick value: DutyTicks, an integer in [0, 4095] (R17, R97). -/
abbrev Tick := BitVec 12

/-- The four bytes of a D6 number as they stand in a frame, most significant first (R96). -/
abbrev D6 := BitVec 32

/-- The type Q of R13: exact rationals, no rounding and no overflow. -/
abbrev Q := Rat

end Sys2Proof
end

