-- ==== Sys2Proof/Config.lean ====
section
/-! DEFINITION. What the spec fixes as constants (R7), the parameters it leaves to the implementation
(R7, R39) and the free values of the environment (R11). -/

namespace Sys2Proof

/-! ## Constants of R7 -/

namespace Config

/-- OSC_HZ: the target's internal clock, hertz (R7). -/
def oscHz : Q := 25000000

/-- TICKS_PER_PERIOD (R7). -/
def ticksPerPeriod : Q := 4096

/-- TICK_MAX: the largest DutyTicks (R7). -/
def tickMax : Int := 4095

/-- DEFAULT_DEV_ADDR: 0x40, the default of the assembler's short form (R7, R102). -/
def defaultDevAddr : Byte := 0x40#8

/-- REG_MODE (R7, R70). -/
def regMode : Byte := 0x00#8

/-- REG_PRESCALE (R7, R70). -/
def regPrescale : Byte := 0xFE#8

/-- REG_CH_BASE: channel 0's ON-low register (R7, R70). -/
def regChBase : Byte := 0x06#8

/-- REG_CH_STRIDE: registers per channel (R7, R70). -/
def regChStride : Byte := 4#8

/-- PULSE_MIN_MS (R7, R153). -/
def pulseMinMs : Q := 1 / 2

/-- PULSE_MAX_MS (R7, R153). -/
def pulseMaxMs : Q := 5 / 2

/-- CMD_MIN (R7, R158). -/
def cmdMin : Q := -1

/-- CMD_MAX (R7, R158). -/
def cmdMax : Q := 1

/-- The scale of the D6 number format: a field n denotes n / 1_000_000 (R96). -/
def d6Scale : Q := 1000000

end Config

/-! ## Parameters -/

/-- The implementation parameters of R7 that have no fixed value: OPEN ones, and ones with a default that a
model must not hard-wire (R71, 92_eei_decisions.md). Log entries 4, 5, 6. -/
structure Params where
  /-- BUS_COUNT, OPEN, at least 1 (R7, D17). -/
  busCount : Nat
  /-- SLEEP_MASK: the sleep bit of the mode register (R71, D8). -/
  sleepMask : Byte
  /-- RESUME_MASK: the "auto-increment/restart bit" (R71, D8). -/
  resumeMask : Byte
  /-- PRESCALE_MIN (R151, D6). -/
  prescaleMin : Byte
  /-- PRESCALE_MAX (R151, D6). -/
  prescaleMax : Byte
  /-- SAFE_MIN_MS (R160, D16). -/
  safeMinMs : Q
  /-- SAFE_MAX_MS (R160, D16). -/
  safeMaxMs : Q
  deriving DecidableEq, Repr

/-! ## What the target answers on the wire -/

/-- What the master finds in the place of one acknowledge bit of a frame (R103 to R105). -/
inductive Slot where
  /-- The target drives the bit low: acknowledge. -/
  | ack
  /-- The bit is received as not-acknowledge. -/
  | nack
  /-- The target holds the clock line, or the bus stays busy, beyond the time-out (R105). -/
  | timeout
  deriving DecidableEq, Repr, Inhabited

/-- The target's answer to one transaction: its three acknowledge slots, in frame order, and the byte it
drives when a read reaches its data byte (R103, R104). -/
structure Reply where
  /-- After the byte `dev ++ 0`. -/
  first : Slot
  /-- After the register address byte. -/
  second : Slot
  /-- After the data byte of a write, after `dev ++ 1` of a read. -/
  third : Slot
  /-- The byte a read returns. -/
  data : Byte
  deriving DecidableEq, Repr, Inhabited

/-- R103, R104: the transaction is Ack exactly when all three acknowledge bits are received as acknowledge. -/
def Reply.ok (r : Reply) : Bool := r.first == .ack && r.second == .ack && r.third == .ack

/-! ## Free values: opaque, so that no proof knows them -/

namespace Config

/-- Free value: whether the environment makes the port available at the n-th draw (R11, R130, U9).
Log entry 1. -/
opaque freeAvail : Nat → Bool

/-- Free value: the target's answer at the n-th draw (R11, R64, R65, U8). Log entry 2. -/
opaque freeReply : Nat → Reply

/-- Free value: how many ports there are beyond the first; BUS_COUNT is OPEN, at least 1 (R7, U17).
Log entry 4. -/
opaque portsBeyondFirst : Nat

/-- The parameters at reset: the defaults of R7, and a free BUS_COUNT. -/
def params : Params where
  busCount := portsBeyondFirst + 1
  sleepMask := 0x10#8
  resumeMask := 0x80#8
  prescaleMin := 3#8
  prescaleMax := 255#8
  safeMinMs := 1 / 2
  safeMaxMs := 5 / 2

end Config

end Sys2Proof
end

