-- ==== Sys2Proof/Machine/State.lean ====
section
/-! DEFINITION. The state of the machine as plain data: the block's record of R20, the parameters, the trace of
R10, the environment of R11, and the reasons a step can stop. -/

namespace Sys2Proof.Machine

/-! ## The block's fields (R20) -/

/-- bus_owner: which unit holds the BusHandle, if any (R21). -/
inductive Owner where
  /-- No handle is open. -/
  | none
  /-- Opened by BUS_OPEN: only BUS_WRITE, BUS_READ, BUS_CLOSE may use it. -/
  | host
  /-- Opened by PWM_CONSTRUCT: only PWC operations, and through them NMM operations, may use it. -/
  | pwc
  deriving DecidableEq, Repr

/-- ctl_state: the controller's state machine (R23). -/
inductive CtlState where
  | uninitialized
  | sleeping
  | awake
  | closed
  deriving DecidableEq, Repr

/-- map_state: the Mapper's lifecycle (R28). -/
inductive MapState where
  | unconstructed
  | active
  | shutDown
  deriving DecidableEq, Repr

/-- The two axes: index 0 of `cal` is steering, index 1 is throttle (R27). -/
inductive Axis where
  | steering
  | throttle
  deriving DecidableEq, Repr

/-- An AxisCalibration record (R27). -/
structure Cal where
  /-- The PWM channel, 0..15. -/
  channel : Byte
  /-- The centre pulse width, milliseconds. -/
  center : Q
  /-- The half-range, milliseconds. -/
  half : Q
  deriving DecidableEq, Repr

/-- The seven errors of R230. -/
inductive Error where
  /-- The bus could not be opened (R231). -/
  | busUnavailable
  /-- A transaction was not acknowledged or timed out (R232). -/
  | transferError
  /-- A channel above 15 (R233). -/
  | invalidChannel
  /-- center ± half outside the safe range (R234). -/
  | outOfRangeCalibration
  /-- A frequency whose prescale is not valid (R235). -/
  | configError
  /-- An operation that is not valid in the present state (R235). -/
  | invalidState
  /-- An undecodable frame (R235). -/
  | illegalCommand
  deriving DecidableEq, Repr

/-- A status (R100): OK or one of the errors. -/
inductive Status where
  | ok
  | error (e : Error)
  deriving DecidableEq, Repr

/-- The complete state of the block, the record of R20. -/
structure Block where
  /-- bus_owner (R21). -/
  busOwner : Owner
  /-- bus_index (R22). -/
  busIndex : Byte
  /-- ctl_state (R23). -/
  ctlState : CtlState
  /-- dev_addr (R24). -/
  devAddr : DevAddr
  /-- freq, hertz (R25). -/
  freq : Q
  /-- prescale (R26). -/
  prescale : Byte
  /-- saved_mode, hidden (R29). -/
  savedMode : Byte
  /-- map_state (R28). -/
  mapState : MapState
  /-- cal[0], steering (R27). -/
  calSteering : Cal
  /-- cal[1], throttle (R27). -/
  calThrottle : Cal
  /-- last_status (R31). -/
  lastStatus : Status
  /-- abort_pending (R32). -/
  abortPending : Bool
  /-- abort_taken (R32). -/
  abortTaken : Bool
  deriving DecidableEq, Repr

/-- The calibration record after reset: R38 leaves it unspecified; log entry 8 (DESIGN CHOICE, unsafe). -/
def Cal.reset : Cal := { channel := 0#8, center := 0, half := 0 }

/-- The block after reset (R38, R270). The fields R38 calls unspecified hold zero: log entry 8 (DESIGN CHOICE,
unsafe). -/
def Block.reset : Block where
  busOwner := .none
  busIndex := 0#8
  ctlState := .uninitialized
  devAddr := 0#7
  freq := 0
  prescale := 0#8
  savedMode := 0#8
  mapState := .unconstructed
  calSteering := Cal.reset
  calThrottle := Cal.reset
  lastStatus := .ok
  abortPending := false
  abortTaken := false

/-! ## The trace (R10) -/

/-- The two settle waits (R248, R250). -/
inductive DelayName where
  /-- SETTLE_WAKE, between init steps 5 and 6. -/
  | settleWake
  /-- SETTLE_NEUTRAL, inside MAP_SHUTDOWN. -/
  | settleNeutral
  deriving DecidableEq, Repr

/-- The acknowledge outcome of a write transaction (R10). -/
inductive Ack where
  | ack
  | nack
  deriving DecidableEq, Repr

/-- The events of R10. -/
inductive Event where
  /-- `Open(b)`: bus port b claimed. -/
  | opened (b : Byte)
  /-- `OpenFail(b)`: bus port b could not be claimed. -/
  | openFail (b : Byte)
  /-- `Wr(dev, reg, v, ack)`: a register write transaction. -/
  | wr (dev : DevAddr) (reg v : Byte) (a : Ack)
  /-- `Rd(dev, reg, v, ack)`: a register read transaction; `some v` is Ack with the byte v, `none` is Nack,
  where the byte has no meaning (R10). -/
  | rd (dev : DevAddr) (reg : Byte) (got : Option Byte)
  /-- `Delay(name)`: a mandatory blocking wait. -/
  | delay (p : DelayName)
  /-- `Close`: the bus port is released. -/
  | closed
  /-- `Resp(status[, data])`: the response to the host. -/
  | resp (st : Status) (data : Option Byte)
  /-- `Reset`: the state was set to its reset values. -/
  | reset
  /-- `AbortDone(status)`: the operator abort has been served. -/
  | abortDone (st : Status)
  deriving DecidableEq, Repr

/-! ## The wires (R103 to R105) -/

/-- What happens on the two wires during a transaction, in order (R103, R104, R105). -/
inductive WireSym where
  /-- `S`, the start condition. -/
  | start
  /-- `Sr`, the repeated start condition. -/
  | restart
  /-- `P`, the stop condition. -/
  | stop
  /-- A bit sent by the master. -/
  | master (b : Bool)
  /-- A bit driven by the target; as an acknowledge bit, low (`false`) is acknowledge. -/
  | target (b : Bool)
  /-- The master's time-out ran out where a bit was expected (R105). -/
  | timeout
  deriving DecidableEq, Repr

/-- One frame on the wires of one bus port. -/
structure WireFrame where
  /-- The bus port. -/
  port : Byte
  /-- The symbols, in order. -/
  symbols : List WireSym
  deriving DecidableEq, Repr

/-! ## The environment (R9, R11) -/

/-- Bytes by location, in one canonical form: locations strictly rising. An unlisted location has no value: the
spec gives no reset contents to the target (R272). Log entry 13. -/
abbrev Memory := List Host.Cell

/-- What answers when no scripted answer is left. -/
inductive Target where
  /-- The oracle of R11: free draws. -/
  | oracle
  /-- The reference target T0 of R81: its device address, the byte its unwritten registers hold, and the
  registers written since. Log entry 22. -/
  | reference (d0 : DevAddr) (fill : Byte) (regs : Memory)
  deriving DecidableEq, Repr

/-- The environment's answers (R11). The scripted answers are used first, in order; then the target answers.
Log entry 3. -/
structure Env where
  /-- Scripted draws of `BusOpen` (R130). -/
  opens : List Bool
  /-- Scripted answers to transactions (R64, R65). -/
  replies : List Reply
  /-- How many free values have been drawn. -/
  drawn : Nat
  /-- What answers when the script is empty. -/
  target : Target
  deriving DecidableEq, Repr

/-- What the outside world does next (R9): the host's command port, the operator's abort, the reset line, and
two events to which the spec gives no behaviour. Log entries 9, 11, 12. -/
inductive Input where
  /-- The host sends a framed command (R90). -/
  | command (frame : List Byte)
  /-- The operator raises `abort` (R240). -/
  | abort
  /-- `reset` is asserted while the block is idle (R270). -/
  | reset
  /-- `reset` is asserted while the command of this frame is in progress (93 U7). -/
  | resetDuring (frame : List Byte)
  /-- Another master drives the bus port (R78, 93 U6). -/
  | foreignMaster
  deriving DecidableEq, Repr

/-! ## The state -/

/-- The whole state. Plain data. -/
structure State where
  /-- The block's record (R20). -/
  block : Block
  /-- The implementation parameters (R7, R39); no step changes them. -/
  params : Params
  /-- The byte the target last accepted at each location (R33). -/
  mem : Memory
  /-- The events so far, oldest first (R10). -/
  trace : List Event
  /-- The frames on the wires so far, oldest first (R103, R104). -/
  wire : List WireFrame
  /-- The environment's answers (R11). -/
  env : Env
  /-- What the outside world does next (R9). -/
  inputs : List Input
  deriving DecidableEq, Repr

/-- The environment at reset: nothing scripted, the free oracle of R11. -/
def Env.reset : Env where
  opens := []
  replies := []
  drawn := 0
  target := .oracle

/-- The machine right after reset (R38, R271): the block at its reset values, idle, no bus activity, nothing
sent yet. Log entries 8, 9, 23. -/
def State.reset : State where
  block := Block.reset
  params := Config.params
  mem := []
  trace := []
  wire := []
  env := Env.reset
  inputs := []

/-! ## Why a step can stop -/

/-- The faults of the model: the two treatments `fault` of 93_implementation_defined.md for what the spec leaves
without behaviour. No command faults. -/
inductive Fault where
  /-- Raised by the step when reset is asserted while a command is in progress (93 U7). Safe: the machine stops
  where the hardware goes on in a way the spec does not give. -/
  | resetInProgress
  /-- Raised by the step when another master drives the bus port while the block holds it (93 U6). Safe, for the
  same reason. -/
  | secondMaster
  deriving DecidableEq, Repr

/-- The refusals of the model. -/
inductive Refusal where
  /-- Raised by `exec` for an instruction that has no meaning yet; no arm answers it now. Safe. -/
  | notModelled (mnemonic : String)
  deriving DecidableEq, Repr

end Sys2Proof.Machine
end

