-- ==== Sys2Proof/Machine/Flags.lean ====
section
/-! DEFINITION. Status: the block has no condition codes (R31); its one status element is last_status, written
by every response and by the abort service. -/

namespace Sys2Proof.Machine

/-- R100: the code of an error. -/
def Error.code : Error → Byte
  | .busUnavailable => 0x01#8
  | .transferError => 0x02#8
  | .invalidChannel => 0x03#8
  | .outOfRangeCalibration => 0x04#8
  | .configError => 0x05#8
  | .invalidState => 0x06#8
  | .illegalCommand => 0x07#8

/-- R100: the status byte. -/
def Status.code : Status → Byte
  | .ok => 0x00#8
  | .error e => e.code

/-- R99: the bytes of a response: the status byte, then the data byte if there is one. -/
def responseBytes (st : Status) (data : Option Byte) : List Byte := st.code :: data.toList

/-- Append an event to the trace (R10). -/
def State.emit (s : State) (e : Event) : State := { s with trace := s.trace ++ [e] }

/-- R31: `last_status <- st`. -/
def State.setLastStatus (s : State) (st : Status) : State := { s with block := { s.block with lastStatus := st } }

/-- R15, R99: `respond(status[, data])`: emit Resp, record the status, back to idle. -/
def State.respond (s : State) (st : Status) (data : Option Byte) : State :=
  (s.setLastStatus st).emit (.resp st data)

/-- R241: `emit AbortDone(s); last_status <- s`. -/
def State.abortServed (s : State) (st : Status) : State := (s.setLastStatus st).emit (.abortDone st)

end Sys2Proof.Machine
end

