-- ==== Sys2Proof/Machine/Memory.lean ====
section
/-! DEFINITION. The register space of R60, R61 as a canonical list of bytes by location. -/

namespace Sys2Proof.Machine

/-- R61: `A(dev, reg)` as a flat number, `256 * uint(dev) + uint(reg)`. -/
def flatAddr (dev : DevAddr) (reg : Byte) : Nat := 256 * dev.toNat + reg.toNat

/-- R60: a location is named by the bus index, the device address and the register address. The key puts the
bus index above the 15 bits of R61. -/
def location (bus : Byte) (dev : DevAddr) (reg : Byte) : Nat := 32768 * bus.toNat + flatAddr dev reg

/-- The number of locations: 8 + 7 + 8 bits. -/
def locations : Nat := 8388608

/-- The byte at a location; an unlisted location has no value. -/
def Memory.read : Memory → Nat → Option Byte
  | [], _ => none
  | (k, v) :: rest, a => if a = k then some v else Memory.read rest a

/-- Set the byte at a location, keeping the locations strictly rising. -/
def Memory.write : Memory → Nat → Byte → Memory
  | [], a, b => [(a, b)]
  | (k, v) :: rest, a, b =>
    if a < k then (a, b) :: (k, v) :: rest
    else if a = k then (a, b) :: rest
    else (k, v) :: Memory.write rest a b

/-- Every listed location lies at or above `low`, rising strictly, and below `locations`. -/
def Memory.risingFrom : Nat → Memory → Bool
  | _, [] => true
  | low, (k, _) :: rest => decide (low ≤ k) && decide (k < locations) && Memory.risingFrom (k + 1) rest

/-- The canonical form: locations strictly rising and inside the space of R60. -/
def Memory.wf (m : Memory) : Bool := Memory.risingFrom 0 m

end Sys2Proof.Machine
end

