-- ==== Sys2Proof/Machine/Numerics.lean ====
section
/-! DEFINITION. The arithmetic of 41_numerics.md: pure functions over exact rationals and integers. -/

namespace Sys2Proof.Machine

/-- R14: round to nearest, ties up. -/
def round (x : Q) : Int := (x + 1 / 2).floor

/-- R14: `lo` below `lo`, `hi` above `hi`, else `x`. -/
def clamp (x lo hi : Q) : Q := if x < lo then lo else if x > hi then hi else x

/-! ## Prescaler divider -/

/-- R150: `round(25_000_000 / (4096 * f) - 1)`; used only for f > 0. -/
def prescaleOf (f : Q) : Int := round (Config.oscHz / (Config.ticksPerPeriod * f) - 1)

/-- R151: f > 0 and the prescale lies in [PRESCALE_MIN, PRESCALE_MAX]. -/
def prescaleValid (p : Params) (f : Q) : Bool :=
  decide (0 < f) && decide ((p.prescaleMin.toNat : Int) ≤ prescaleOf f)
    && decide (prescaleOf f ≤ (p.prescaleMax.toNat : Int))

/-- R151, R26: a valid prescale as the 8-bit data byte. -/
def prescaleByte (f : Q) : Byte := BitVec.ofInt 8 (prescaleOf f)

/-! ## Duty-cycle formatter -/

/-- R153: the pulse width clamped to [0.5, 2.5] ms. -/
def clampPulse (p : Q) : Q := clamp p Config.pulseMinMs Config.pulseMaxMs

/-- R154: `round(p * f * 4096 / 1000)`. -/
def ticksOf (p f : Q) : Int := round (p * f * Config.ticksPerPeriod / 1000)

/-- R155: clamp, round, saturate at 4095. -/
def dutyTicks (p f : Q) : Int := min (ticksOf (clampPulse p) f) Config.tickMax

/-- R155: the duty ticks as the 12-bit value handed to the register writer. -/
def dutyTick (p f : Q) : Tick := BitVec.ofInt 12 (dutyTicks p f)

/-- R156: the low byte of a tick value, `t[7:0]`. -/
def tickLow (t : Tick) : Byte := t.extractLsb' 0 8

/-- R156: the high byte of a tick value, `0000 ++ t[11:8]`. -/
def tickHigh (t : Tick) : Byte := 0#4 ++ t.extractLsb' 8 4

/-- R161: `0x06 + 4 * c`. -/
def baseReg (c : Byte) : Byte := Config.regChBase + Config.regChStride * c

/-- R157: the inverse scale, milliseconds; the block never computes it. -/
def ticksToPulse (t : Int) (f : Q) : Q := t * 1000 / (f * Config.ticksPerPeriod)

/-! ## Mapper arithmetic -/

/-- R158: the normalized command clamped to [-1, 1]. -/
def clampCommand (x : Q) : Q := clamp x Config.cmdMin Config.cmdMax

/-- R159: `center + ClampCommand(x) * half`. -/
def mapPulse (k : Cal) (x : Q) : Q := k.center + clampCommand x * k.half

/-- R160: the half-range is not negative and center ± half lies in the safe range. -/
def calibrationValid (p : Params) (center half : Q) : Bool :=
  decide (0 ≤ half) && decide (p.safeMinMs ≤ center - half) && decide (center + half ≤ p.safeMaxMs)

end Sys2Proof.Machine
end

