-- ==== Sys2Proof/Machine/Operands.lean ====
section
/-! DEFINITION. The operand forms of R92 and the indexed calibration file of R27. -/

namespace Sys2Proof.Machine

/-- R96: a D6 field denotes sint(field) / 1_000_000. -/
def d6Value (n : D6) : Q := n.toInt / Config.d6Scale

/-- R98: the device address is `addr[6:0]`. -/
def devOf (addr : Byte) : DevAddr := addr.extractLsb' 0 7

/-- R97, R175: the tick value is bits 11..0 of its field. -/
def tickOf (t : BitVec 16) : Tick := t.extractLsb' 0 12

/-- R92: axis 0 is steering, 1 is throttle; the decoder refuses any other byte (log entry 17). -/
def axisOf (axis : Byte) : Axis := if axis = 0#8 then .steering else .throttle

/-- R27: the record `cal[a]`. -/
def Block.cal (b : Block) : Axis → Cal
  | .steering => b.calSteering
  | .throttle => b.calThrottle

/-- R27: the assignment `cal[a] <- k`, the whole record at once. -/
def Block.setCal (b : Block) (a : Axis) (k : Cal) : Block :=
  match a with
  | .steering => { b with calSteering := k }
  | .throttle => { b with calThrottle := k }

end Sys2Proof.Machine
end

