-- ==== Sys2Proof/Machine/Wire.lean ====
section
/-! DEFINITION. The frames of the two-wire bus: R103 (register write), R104 (register read), R105 (failure). -/

namespace Sys2Proof.Machine

/-- The bits of a byte, most significant first (R66, R103). -/
def msbFirst (b : Byte) : List Bool :=
  [b.getLsbD 7, b.getLsbD 6, b.getLsbD 5, b.getLsbD 4, b.getLsbD 3, b.getLsbD 2, b.getLsbD 1, b.getLsbD 0]

/-- A byte sent by the master (R103). -/
def masterByte (b : Byte) : List WireSym := (msbFirst b).map .master

/-- A byte driven by the target (R104). -/
def targetByte (b : Byte) : List WireSym := (msbFirst b).map .target

/-- R105: after an acknowledge the frame goes on; after a not-acknowledge or a time-out the master sends P at
once and nothing further of the frame. -/
def answered (slot : Slot) (rest : List WireSym) : List WireSym :=
  match slot with
  | .ack => .target false :: rest
  | .nack => [.target true, .stop]
  | .timeout => [.timeout, .stop]

/-- The byte that addresses a device: `dev[6:0] ++ 0` to write, `dev[6:0] ++ 1` to read (R103, R104). -/
def addressByte (dev : DevAddr) (read : Bool) : Byte := dev ++ BitVec.ofBool read

/-- R103: `S | dev ++ 0 | a | reg | a | v | a | P`. -/
def writeFrame (dev : DevAddr) (reg v : Byte) (r : Reply) : List WireSym :=
  .start :: (masterByte (addressByte dev false) ++ answered r.first
    (masterByte reg ++ answered r.second
      (masterByte v ++ answered r.third [.stop])))

/-- R104: `S | dev ++ 0 | a | reg | a | Sr | dev ++ 1 | a | v (from target) | n | P`. -/
def readFrame (dev : DevAddr) (reg : Byte) (r : Reply) : List WireSym :=
  .start :: (masterByte (addressByte dev false) ++ answered r.first
    (masterByte reg ++ answered r.second
      (.restart :: (masterByte (addressByte dev true) ++ answered r.third
        (targetByte r.data ++ [.master true, .stop])))))

end Sys2Proof.Machine
end

