-- ==== Sys2Proof/Machine/Ops.lean ====
section
/-! DEFINITION. The primitives of R15 and the shared procedures: environment draws, bus open and close, register
write and read, wait, raising and catching an error, the cleanup. -/

namespace Sys2Proof.Machine

/-! ## Procedures that may raise (R236) -/

/-- How a procedure ended: it returned a value, or it raised an error; in both cases in the state its completed
micro-steps produced (R236, "Errors are precise"). -/
inductive Ran (α : Type) where
  | done (a : α) (s : State)
  | raised (e : Error) (s : State)

/-- Sequencing: after a raise nothing further of the procedure happens (R236). -/
def Ran.andThen {α β : Type} (r : Ran α) (next : α → State → Ran β) : Ran β :=
  match r with
  | .done a s => next a s
  | .raised e s => .raised e s

/-! ## The environment's draws (R11) -/

/-- The reference target's answer (R81): it acknowledges every transaction addressed to `d0` and no other, and
returns its register. -/
def referenceReply (d0 : DevAddr) (fill : Byte) (regs : Memory) (dev : DevAddr) (reg : Byte) : Reply :=
  if dev = d0 then
    { first := .ack, second := .ack, third := .ack, data := (regs.read reg.toNat).getD fill }
  else { first := .nack, second := .nack, third := .nack, data := 0#8 }

/-- The answer to a transaction at (dev, reg): the next scripted one, else the target's (R11, R81). -/
def Env.nextReply (e : Env) (dev : DevAddr) (reg : Byte) : Reply × Env :=
  match e.replies with
  | r :: rest => (r, { e with replies := rest })
  | [] =>
    match e.target with
    | .oracle => (Config.freeReply e.drawn, { e with drawn := e.drawn + 1 })
    | .reference d0 fill regs => (referenceReply d0 fill regs dev reg, e)

/-- The environment's draw of `BusOpen` (R130): the next scripted one, else the free draw; with the reference
target every port below BUS_COUNT is available (R81). -/
def Env.nextOpen (e : Env) : Bool × Env :=
  match e.opens with
  | a :: rest => (a, { e with opens := rest })
  | [] =>
    match e.target with
    | .oracle => (Config.freeAvail e.drawn, { e with drawn := e.drawn + 1 })
    | .reference _ _ _ => (true, e)

/-- The reference target stores an acknowledged write to its own address (R81); the oracle keeps nothing. -/
def Env.accept (e : Env) (dev : DevAddr) (reg v : Byte) : Env :=
  match e.target with
  | .oracle => e
  | .reference d0 fill regs =>
    if dev = d0 then { e with target := .reference d0 fill (regs.write reg.toNat v) } else e

/-! ## Register transactions (R64, R65) -/

/-- Append the frame of a transaction to the wires of the open port (R22, R103, R104). -/
def State.sendFrame (s : State) (symbols : List WireSym) : State :=
  { s with wire := s.wire ++ [{ port := s.block.busIndex, symbols := symbols }] }

/-- An acknowledged write takes effect at the target: `mem` records it (R33, R68; log entry 13). -/
def State.acceptWrite (s : State) (dev : DevAddr) (reg v : Byte) : State :=
  { s with
    mem := s.mem.write (location s.block.busIndex dev reg) v
    env := s.env.accept dev reg v }

/-- R64: `MemWrite(A(dev, reg), 1, v)`. -/
def memWrite (dev : DevAddr) (reg v : Byte) (s : State) : Ran Unit :=
  let (r, env) := s.env.nextReply dev reg
  let sent := { s with env := env }.sendFrame (writeFrame dev reg v r)
  if r.ok then .done () ((sent.emit (.wr dev reg v .ack)).acceptWrite dev reg v)
  else .raised .transferError (sent.emit (.wr dev reg v .nack))

/-- R65: `MemRead(A(dev, reg), 1)`. -/
def memRead (dev : DevAddr) (reg : Byte) (s : State) : Ran Byte :=
  let (r, env) := s.env.nextReply dev reg
  let sent := { s with env := env }.sendFrame (readFrame dev reg r)
  if r.ok then .done r.data (sent.emit (.rd dev reg (some r.data)))
  else .raised .transferError (sent.emit (.rd dev reg none))

/-- A fixed sequence of register writes (register, byte) to one device; the first failure ends it (R174). -/
def writeAll (dev : DevAddr) : List (Byte × Byte) → State → Ran Unit
  | [], s => .done () s
  | (reg, v) :: rest, s => (memWrite dev reg v s).andThen fun _ t => writeAll dev rest t

/-- `ignore_errors S` (R15): the state after S, whether or not it raised. -/
def ignoreErrors (r : Ran Unit) : State :=
  match r with
  | .done _ s => s
  | .raised _ s => s

/-- Zero writes to registers of one device in order, every failure discarded (R173). -/
def zeroIgnoring (dev : DevAddr) : List Byte → State → State
  | [], s => s
  | reg :: rest, s => zeroIgnoring dev rest (ignoreErrors (memWrite dev reg 0x00#8 s))

/-! ## The bus handle (R130, R133) and the settle timer (R250) -/

/-- R130: `BusOpen(b, who)`. The environment draws only after the two tests. -/
def busOpen (b : Byte) (who : Owner) (s : State) : Ran Unit :=
  if s.block.busOwner ≠ .none then .raised .busUnavailable (s.emit (.openFail b))
  else if s.params.busCount ≤ b.toNat then .raised .busUnavailable (s.emit (.openFail b))
  else
    let (avail, env) := s.env.nextOpen
    let drawn := { s with env := env }
    if avail then
      .done () { drawn.emit (.opened b) with block := { s.block with busOwner := who, busIndex := b } }
    else .raised .busUnavailable (drawn.emit (.openFail b))

/-- R133: `BusClose()`: emit Close; `bus_owner <- None`. -/
def busClose (s : State) : State := { s.emit .closed with block := { s.block with busOwner := .none } }

/-- R250: `Wait(P)`: the Delay event alone; its length is not modelled (log entry 16). -/
def wait (p : DelayName) (s : State) : State := s.emit (.delay p)

/-- The assignment `ctl_state <- c` (R23). -/
def State.setCtl (s : State) (c : CtlState) : State := { s with block := { s.block with ctlState := c } }

/-- The assignment `map_state <- m` (R28). -/
def State.setMap (s : State) (m : MapState) : State := { s with block := { s.block with mapState := m } }

/-! ## The channel registers (R70, R106, R161) -/

/-- The sixteen channels 0 .. 15 in order (N_CHANNELS of R7; R178). -/
def allChannels : List Byte :=
  [0#8, 1#8, 2#8, 3#8, 4#8, 5#8, 6#8, 7#8, 8#8, 9#8, 10#8, 11#8, 12#8, 13#8, 14#8, 15#8]

/-- The four registers of a channel: ON-low, ON-high, OFF-low, OFF-high (R70). -/
def channelRegs (c : Byte) : List Byte := [baseReg c, baseReg c + 1#8, baseReg c + 2#8, baseReg c + 3#8]

/-- R106: the registers and bytes of a tick pair, in the order they are written. -/
def tickPairWrites (c : Byte) (on off : Tick) : List (Byte × Byte) :=
  [(baseReg c, tickLow on), (baseReg c + 1#8, tickHigh on),
   (baseReg c + 2#8, tickLow off), (baseReg c + 3#8, tickHigh off)]

/-! ## Taking an error: the entry of R236, fatal or not -/

/-- R173: `Cleanup()`: if the controller holds the bus, 64 best-effort zero writes, then the close. -/
def cleanup (s : State) : State :=
  if s.block.busOwner = .pwc then
    (busClose (zeroIgnoring s.block.devAddr (allChannels.flatMap channelRegs) s)).setCtl .closed
  else s

/-- R236 (a): a non-fatal error: respond with it at once. -/
def failWith (e : Error) (s : State) : State := s.respond (.error e) none

/-- R236 (b), R238: a fatal error: the cleanup, then the response. -/
def failFatally (e : Error) (s : State) : State := (cleanup s).respond (.error e) none

/-- The end of a command whose errors are not fatal: OK, or the error its procedure raised. -/
def answer (r : Ran Unit) : State :=
  match r with
  | .done _ s => s.respond .ok none
  | .raised e s => failWith e s

/-- The end of a command whose errors are fatal (R237). -/
def answerFatally (r : Ran Unit) : State :=
  match r with
  | .done _ s => s.respond .ok none
  | .raised e s => failFatally e s

end Sys2Proof.Machine
end

