-- ==== Sys2Proof/Machine/BusRegisterDriver.lean ====
section
/-! DEFINITION. The four raw commands of the Bus Register Driver (40_bus_register_driver.md). -/

namespace Sys2Proof.Machine

/-- R134: BUS_OPEN bus. -/
def execBusOpen (bus : Byte) (s : State) : Host.Outcome State Fault Refusal :=
  .next (answer (busOpen bus .host s))

/-- R135: BUS_WRITE addr, reg, val. -/
def execBusWrite (addr reg val : Byte) (s : State) : Host.Outcome State Fault Refusal :=
  .next (if s.block.busOwner ≠ .host then failWith .invalidState s
    else answer (memWrite (devOf addr) reg val s))

/-- R136: BUS_READ addr, reg. A successful response carries the byte read. -/
def execBusRead (addr reg : Byte) (s : State) : Host.Outcome State Fault Refusal :=
  .next (if s.block.busOwner ≠ .host then failWith .invalidState s
    else match memRead (devOf addr) reg s with
      | .done v t => t.respond .ok (some v)
      | .raised e t => failWith e t)

/-- R137: BUS_CLOSE. -/
def execBusClose (s : State) : Host.Outcome State Fault Refusal :=
  .next (if s.block.busOwner ≠ .host then failWith .invalidState s
    else (busClose s).respond .ok none)

end Sys2Proof.Machine
end

