-- ==== Sys2Proof/Machine/PwmController.lean ====
section
/-! DEFINITION. The PWM Controller: its internal procedures and its five commands (42_pwm_controller.md). -/

namespace Sys2Proof.Machine

/-! ## Internal procedures -/

/-- Init step 2 stores what the mode register returned (R29, R172). -/
def State.setSavedMode (s : State) (m : Byte) : State := { s with block := { s.block with savedMode := m } }

/-- R172: `InitSequence()`, the six steps and the mandatory wait. -/
def initSequence (s : State) : Ran Unit :=
  (memWrite s.block.devAddr Config.regMode 0x00#8 s).andThen fun _ s =>
  (memRead s.block.devAddr Config.regMode s).andThen fun m s =>
  let s := s.setSavedMode m
  (memWrite s.block.devAddr Config.regMode (s.block.savedMode ||| s.params.sleepMask) s).andThen fun _ s =>
  let s := s.setCtl .sleeping
  (memWrite s.block.devAddr Config.regPrescale s.block.prescale s).andThen fun _ s =>
  (memWrite s.block.devAddr Config.regMode s.block.savedMode s).andThen fun _ s =>
  let s := wait .settleWake s
  (memWrite s.block.devAddr Config.regMode (s.block.savedMode ||| s.params.resumeMask) s).andThen fun _ s =>
  .done () (s.setCtl .awake)

/-- R174: `SetChannelTicks(c, on, off)`: the channel test before any bus access, then four writes. -/
def setChannelTicks (c : Byte) (on off : Tick) (s : State) : Ran Unit :=
  if 15 < c.toNat then .raised .invalidChannel s
  else writeAll s.block.devAddr (tickPairWrites c on off) s

/-- R176: `SetPulseWidth(c, p)`: clamp, round and saturate with the stored frequency; ON fixed at 0. -/
def setPulseWidth (c : Byte) (p : Q) (s : State) : Ran Unit :=
  setChannelTicks c 0#12 (dutyTick p s.block.freq) s

/-- The loop of R178 over a list of channels. -/
def stopChannels : List Byte → State → Ran Unit
  | [], s => .done () s
  | c :: rest, s => (setChannelTicks c 0#12 0#12 s).andThen fun _ t => stopChannels rest t

/-- R178: `StopAllChannels()`. -/
def stopAllChannels (s : State) : Ran Unit := stopChannels allChannels s

/-- The controller's data, written once by PWM_CONSTRUCT (R25, R26, R171). -/
def State.setFreq (s : State) (f : Q) : State :=
  { s with block := { s.block with freq := f, prescale := prescaleByte f } }

/-- The target's address, written once by PWM_CONSTRUCT (R24, R171). -/
def State.setDevAddr (s : State) (d : DevAddr) : State := { s with block := { s.block with devAddr := d } }

/-- R171 after the bus was opened: the address, the frequency test, the init sequence. -/
def constructOpened (addr : Byte) (freq : D6) (s : State) : State :=
  let s := s.setDevAddr (devOf addr)
  if prescaleValid s.params (d6Value freq) then answerFatally (initSequence (s.setFreq (d6Value freq)))
  else failFatally .configError s

/-! ## Commands -/

/-- R171: PWM_CONSTRUCT bus, addr, freq. -/
def execPwmConstruct (bus addr : Byte) (freq : D6) (s : State) : Host.Outcome State Fault Refusal :=
  .next (if s.block.ctlState ≠ .uninitialized then failWith .invalidState s
    else match busOpen bus .pwc s with
      | .raised e t => failWith e t
      | .done _ t => constructOpened addr freq t)

/-- R175: PWM_SET_TICKS ch, on, off. -/
def execPwmSetTicks (ch : Byte) (on off : BitVec 16) (s : State) : Host.Outcome State Fault Refusal :=
  .next (if s.block.ctlState ≠ .awake then failWith .invalidState s
    else answer (setChannelTicks ch (tickOf on) (tickOf off) s))

/-- R177: PWM_SET_PULSE ch, pulse. -/
def execPwmSetPulse (ch : Byte) (pulse : D6) (s : State) : Host.Outcome State Fault Refusal :=
  .next (if s.block.ctlState ≠ .awake then failWith .invalidState s
    else answer (setPulseWidth ch (d6Value pulse) s))

/-- R179: PWM_STOP_ALL. -/
def execPwmStopAll (s : State) : Host.Outcome State Fault Refusal :=
  .next (if s.block.ctlState ≠ .awake then failWith .invalidState s
    else answer (stopAllChannels s))

/-- R180: PWM_CLOSE. -/
def execPwmClose (s : State) : Host.Outcome State Fault Refusal :=
  .next (if s.block.ctlState ≠ .awake then failWith .invalidState s
    else ((busClose s).setCtl .closed).respond .ok none)

end Sys2Proof.Machine
end

