-- ==== Sys2Proof/Machine/MotionMapper.lean ====
section
/-! DEFINITION. The Normalized Motion Mapper: its procedures and its six commands (43_motion_mapper.md). -/

namespace Sys2Proof.Machine

/-! ## Procedures -/

/-- R202: `SetAxis(a, x)`. -/
def setAxis (a : Axis) (x : Q) (s : State) : Ran Unit :=
  setPulseWidth (s.block.cal a).channel (mapPulse (s.block.cal a) x) s

/-- R206: `Stop()`: throttle first, then steering. -/
def stopAxes (s : State) : Ran Unit :=
  (setAxis .throttle 0 s).andThen fun _ t => setAxis .steering 0 t

/-- R200: the test of the commands that drive an axis. -/
def mapperReady (s : State) : Bool := s.block.mapState == .active && s.block.ctlState == .awake

/-- The assignment `cal[a] <- k` (R27). -/
def State.setCal (s : State) (a : Axis) (k : Cal) : State := { s with block := s.block.setCal a k }

/-- The try block of R208: neutral, the settle wait, the electrical stop. -/
def shutdownSequence (s : State) : Ran Unit :=
  (stopAxes s).andThen fun _ t => stopAllChannels (wait .settleNeutral t)

/-- The body of MAP_SHUTDOWN for an active Mapper (R208), with the status it ends in; MAP_SHUTDOWN responds with
it, the abort service reports it (R241). -/
def shutdownBody (s : State) : Status × State :=
  let s := s.setMap .shutDown
  if s.block.ctlState ≠ .awake then (.error .invalidState, s)
  else match shutdownSequence s with
    | .done _ t => (.ok, (busClose t).setCtl .closed)
    | .raised e t => (.error e, cleanup t)

/-! ## Commands -/

/-- R201: MAP_CONSTRUCT s_ch, s_center, s_half, t_ch, t_center, t_half. -/
def execMapConstruct (sCh : Byte) (sCenter sHalf : D6) (tCh : Byte) (tCenter tHalf : D6) (s : State) :
    Host.Outcome State Fault Refusal :=
  let k0 : Cal := { channel := sCh, center := d6Value sCenter, half := d6Value sHalf }
  let k1 : Cal := { channel := tCh, center := d6Value tCenter, half := d6Value tHalf }
  .next (if s.block.mapState ≠ .unconstructed ∨ s.block.ctlState ≠ .awake then failWith .invalidState s
    else if 15 < sCh.toNat ∨ 15 < tCh.toNat then failWith .invalidChannel s
    else if ¬ (calibrationValid s.params k0.center k0.half ∧ calibrationValid s.params k1.center k1.half) then
      failWith .outOfRangeCalibration s
    else answerFatally
      ((setAxis .steering 0 ((s.setCal .steering k0).setCal .throttle k1)).andThen fun _ t =>
        (setAxis .throttle 0 t).andThen fun _ u => .done () (u.setMap .active)))

/-- R203: MAP_SET_STEERING cmd. -/
def execMapSetSteering (cmd : D6) (s : State) : Host.Outcome State Fault Refusal :=
  .next (if mapperReady s then answer (setAxis .steering (d6Value cmd) s) else failWith .invalidState s)

/-- R204: MAP_SET_THROTTLE cmd. -/
def execMapSetThrottle (cmd : D6) (s : State) : Host.Outcome State Fault Refusal :=
  .next (if mapperReady s then answer (setAxis .throttle (d6Value cmd) s) else failWith .invalidState s)

/-- R205: MAP_RECAL_CENTER axis, center. No bus transaction; the record is replaced as a whole. It needs
only an active Mapper, whoever owns the handle (R200; R131 against it: log entry 25). -/
def execMapRecalCenter (axis : Byte) (center : D6) (s : State) : Host.Outcome State Fault Refusal :=
  let a := axisOf axis
  let k := s.block.cal a
  .next (if s.block.mapState ≠ .active then failWith .invalidState s
    else if ¬ calibrationValid s.params (d6Value center) k.half then failWith .outOfRangeCalibration s
    else (s.setCal a { channel := k.channel, center := d6Value center, half := k.half }).respond .ok none)

/-- R207: MAP_STOP. -/
def execMapStop (s : State) : Host.Outcome State Fault Refusal :=
  .next (if mapperReady s then answer (stopAxes s) else failWith .invalidState s)

/-- R208: MAP_SHUTDOWN. -/
def execMapShutdown (s : State) : Host.Outcome State Fault Refusal :=
  .next (match s.block.mapState with
    | .shutDown => s.respond .ok none
    | .unconstructed => failWith .invalidState s
    | .active => (shutdownBody s).2.respond (shutdownBody s).1 none)

end Sys2Proof.Machine
end

