-- ==== Sys2Proof/Syntax.lean ====
section
/-! DEFINITION. The fifteen commands of R93 with the operand fields of R91 at the widths a frame carries
them. A field whose legal values are fewer than its bits (R92) is checked by `Instr.WellFormed`. -/

namespace Sys2Proof

/-- One command of the block, the analogue of an instruction (R18, R93). -/
inductive Instr where
  /-- BUS_OPEN bus (R134). -/
  | busOpen (bus : Byte)
  /-- BUS_WRITE addr, reg, val (R135). -/
  | busWrite (addr reg val : Byte)
  /-- BUS_READ addr, reg (R136). -/
  | busRead (addr reg : Byte)
  /-- BUS_CLOSE (R137). -/
  | busClose
  /-- PWM_CONSTRUCT bus, addr, freq (R171). -/
  | pwmConstruct (bus addr : Byte) (freq : D6)
  /-- PWM_SET_TICKS ch, on, off (R175). -/
  | pwmSetTicks (ch : Byte) (on off : BitVec 16)
  /-- PWM_SET_PULSE ch, pulse (R177). -/
  | pwmSetPulse (ch : Byte) (pulse : D6)
  /-- PWM_STOP_ALL (R179). -/
  | pwmStopAll
  /-- PWM_CLOSE (R180). -/
  | pwmClose
  /-- MAP_CONSTRUCT s_ch, s_center, s_half, t_ch, t_center, t_half (R201). -/
  | mapConstruct (sCh : Byte) (sCenter sHalf : D6) (tCh : Byte) (tCenter tHalf : D6)
  /-- MAP_SET_STEERING cmd (R203). -/
  | mapSetSteering (cmd : D6)
  /-- MAP_SET_THROTTLE cmd (R204). -/
  | mapSetThrottle (cmd : D6)
  /-- MAP_RECAL_CENTER axis, center (R205). -/
  | mapRecalCenter (axis : Byte) (center : D6)
  /-- MAP_STOP (R207). -/
  | mapStop
  /-- MAP_SHUTDOWN (R208). -/
  | mapShutdown
  deriving DecidableEq, Repr

/-- The fifteen opcodes of R93, by name. -/
inductive Opcode where
  | busOpen | busWrite | busRead | busClose
  | pwmConstruct | pwmSetTicks | pwmSetPulse | pwmStopAll | pwmClose
  | mapConstruct | mapSetSteering | mapSetThrottle | mapRecalCenter | mapStop | mapShutdown
  deriving DecidableEq, Repr

/-- The opcode of a command. -/
def Instr.opcode : Instr → Opcode
  | .busOpen _ => .busOpen
  | .busWrite _ _ _ => .busWrite
  | .busRead _ _ => .busRead
  | .busClose => .busClose
  | .pwmConstruct _ _ _ => .pwmConstruct
  | .pwmSetTicks _ _ _ => .pwmSetTicks
  | .pwmSetPulse _ _ => .pwmSetPulse
  | .pwmStopAll => .pwmStopAll
  | .pwmClose => .pwmClose
  | .mapConstruct _ _ _ _ _ _ => .mapConstruct
  | .mapSetSteering _ => .mapSetSteering
  | .mapSetThrottle _ => .mapSetThrottle
  | .mapRecalCenter _ _ => .mapRecalCenter
  | .mapStop => .mapStop
  | .mapShutdown => .mapShutdown

end Sys2Proof
end

