-- ==== Sys2Proof/Machine/Dispatch.lean ====
section
/-! DEFINITION. The dispatch: one arm per command, one direct call of its meaning. -/

namespace Sys2Proof.Machine

def exec (i : Instr) (s : State) : Host.Outcome State Fault Refusal :=
  match i with
  | .busOpen bus => Sys2Proof.Machine.execBusOpen bus s
  | .busWrite addr reg val => Sys2Proof.Machine.execBusWrite addr reg val s
  | .busRead addr reg => Sys2Proof.Machine.execBusRead addr reg s
  | .busClose => Sys2Proof.Machine.execBusClose s
  | .pwmConstruct bus addr freq => Sys2Proof.Machine.execPwmConstruct bus addr freq s
  | .pwmSetTicks ch on off => Sys2Proof.Machine.execPwmSetTicks ch on off s
  | .pwmSetPulse ch pulse => Sys2Proof.Machine.execPwmSetPulse ch pulse s
  | .pwmStopAll => Sys2Proof.Machine.execPwmStopAll s
  | .pwmClose => Sys2Proof.Machine.execPwmClose s
  | .mapConstruct sCh sCenter sHalf tCh tCenter tHalf => Sys2Proof.Machine.execMapConstruct sCh sCenter sHalf tCh tCenter tHalf s
  | .mapSetSteering cmd => Sys2Proof.Machine.execMapSetSteering cmd s
  | .mapSetThrottle cmd => Sys2Proof.Machine.execMapSetThrottle cmd s
  | .mapRecalCenter axis center => Sys2Proof.Machine.execMapRecalCenter axis center s
  | .mapStop => Sys2Proof.Machine.execMapStop s
  | .mapShutdown => Sys2Proof.Machine.execMapShutdown s

end Sys2Proof.Machine
end

