-- ==== Sys2Proof/WellFormed.lean ====
section
/-! DEFINITION. The "legal values" test of R92: the fields of a command whose value the decoder refuses
with IllegalCommand. -/

namespace Sys2Proof

/-- R92, R98: a device address field has bit 7 = 0. -/
def addrLegal (addr : Byte) : Bool := addr.getLsbD 7 == false

/-- R92, R97: a tick field has bits 15 to 12 = 0. -/
def tickLegal (t : BitVec 16) : Bool := t.extractLsb' 12 4 == 0#4

/-- R92: an axis field is 0 (steering) or 1 (throttle). -/
def axisLegal (axis : Byte) : Bool := axis == 0#8 || axis == 1#8

/-- Every field of the command has a legal value (R92). -/
def Instr.wellFormed : Instr → Bool
  | .busOpen _ => true
  | .busWrite addr _ _ => addrLegal addr
  | .busRead addr _ => addrLegal addr
  | .busClose => true
  | .pwmConstruct _ addr _ => addrLegal addr
  | .pwmSetTicks _ on off => tickLegal on && tickLegal off
  | .pwmSetPulse _ _ => true
  | .pwmStopAll => true
  | .pwmClose => true
  | .mapConstruct _ _ _ _ _ _ => true
  | .mapSetSteering _ => true
  | .mapSetThrottle _ => true
  | .mapRecalCenter axis _ => axisLegal axis
  | .mapStop => true
  | .mapShutdown => true

/-- `Instr.wellFormed` as a proposition. -/
abbrev Instr.WellFormed (i : Instr) : Prop := i.wellFormed = true

end Sys2Proof
end

