-- ==== Sys2Proof/Decode.lean ====
section
/-! DEFINITION. The host command words: the opcode table (R91, R93), the decoder (R94), total on any byte
string and rejecting by name, and the encoder. -/

namespace Sys2Proof

/-! ## The opcode table -/

/-- The opcode byte c[0] of a command (R93). -/
def Opcode.code : Opcode → Byte
  | .busOpen => 0x01#8
  | .busWrite => 0x02#8
  | .busRead => 0x03#8
  | .busClose => 0x04#8
  | .pwmConstruct => 0x10#8
  | .pwmSetTicks => 0x11#8
  | .pwmSetPulse => 0x12#8
  | .pwmStopAll => 0x13#8
  | .pwmClose => 0x14#8
  | .mapConstruct => 0x20#8
  | .mapSetSteering => 0x21#8
  | .mapSetThrottle => 0x22#8
  | .mapRecalCenter => 0x23#8
  | .mapStop => 0x24#8
  | .mapShutdown => 0x25#8

/-- The ten frame formats of R91. -/
inductive Format where
  | Z | B | R | W | N | T | P | K | C | M
  deriving DecidableEq, Repr

/-- The length of a frame of a format, in bytes (R91). -/
def Format.length : Format → Nat
  | .Z => 1
  | .B => 2
  | .R => 3
  | .W => 4
  | .N => 5
  | .T => 6
  | .P => 6
  | .K => 6
  | .C => 7
  | .M => 19

/-- The format of a command (R91, R93). -/
def Opcode.format : Opcode → Format
  | .busOpen => .B
  | .busWrite => .W
  | .busRead => .R
  | .busClose => .Z
  | .pwmConstruct => .C
  | .pwmSetTicks => .T
  | .pwmSetPulse => .P
  | .pwmStopAll => .Z
  | .pwmClose => .Z
  | .mapConstruct => .M
  | .mapSetSteering => .N
  | .mapSetThrottle => .N
  | .mapRecalCenter => .K
  | .mapStop => .Z
  | .mapShutdown => .Z

/-- The length of a command's frame: told by the opcode alone (R94). -/
def Opcode.frameLength (o : Opcode) : Nat := o.format.length

/-- The table's mask over the whole frame as one number: the opcode byte and the bits that must be zero (R93). -/
def Opcode.mask : Opcode → Nat
  | .busOpen => 0xFF00
  | .busWrite => 0xFF800000
  | .busRead => 0xFF8000
  | .busClose => 0xFF
  | .pwmConstruct => 0xFF008000000000
  | .pwmSetTicks => 0xFF00F000F000
  | .pwmSetPulse => 0xFF0000000000
  | .pwmStopAll => 0xFF
  | .pwmClose => 0xFF
  | .mapConstruct => 0xFF000000000000000000000000000000000000
  | .mapSetSteering => 0xFF00000000
  | .mapSetThrottle => 0xFF00000000
  | .mapRecalCenter => 0xFFFE00000000
  | .mapStop => 0xFF
  | .mapShutdown => 0xFF

/-- The table's match value over the whole frame as one number (R93). -/
def Opcode.pattern : Opcode → Nat
  | .busOpen => 0x0100
  | .busWrite => 0x02000000
  | .busRead => 0x030000
  | .busClose => 0x04
  | .pwmConstruct => 0x10000000000000
  | .pwmSetTicks => 0x110000000000
  | .pwmSetPulse => 0x120000000000
  | .pwmStopAll => 0x13
  | .pwmClose => 0x14
  | .mapConstruct => 0x20000000000000000000000000000000000000
  | .mapSetSteering => 0x2100000000
  | .mapSetThrottle => 0x2200000000
  | .mapRecalCenter => 0x230000000000
  | .mapStop => 0x24
  | .mapShutdown => 0x25

/-- All opcodes, in the table's order. -/
def allOpcodes : List Opcode :=
  [.busOpen, .busWrite, .busRead, .busClose,
   .pwmConstruct, .pwmSetTicks, .pwmSetPulse, .pwmStopAll, .pwmClose,
   .mapConstruct, .mapSetSteering, .mapSetThrottle, .mapRecalCenter, .mapStop, .mapShutdown]

/-- The opcode a byte stands for, if any (R93). -/
def opcodeOf (b : Byte) : Option Opcode := allOpcodes.find? fun o => o.code == b

/-! ## Big-endian fields (R90) -/

/-- A 16-bit field from its two bytes, most significant first. -/
def be16 (b1 b0 : Byte) : BitVec 16 := b1 ++ b0

/-- A 32-bit field from its four bytes, most significant first. -/
def be32 (b3 b2 b1 b0 : Byte) : BitVec 32 := b3 ++ b2 ++ b1 ++ b0

/-- The two bytes of a 16-bit field, most significant first. -/
def bytes16 (x : BitVec 16) : List Byte := [x.extractLsb' 8 8, x.extractLsb' 0 8]

/-- The four bytes of a 32-bit field, most significant first. -/
def bytes32 (x : BitVec 32) : List Byte :=
  [x.extractLsb' 24 8, x.extractLsb' 16 8, x.extractLsb' 8 8, x.extractLsb' 0 8]

/-- A frame seen as one number of 8n bits, c[0] in the highest eight (R90). -/
def frameNumber : List Byte → Nat
  | [] => 0
  | b :: rest => b.toNat * 2 ^ (8 * rest.length) + frameNumber rest

/-- The n bytes of a number of 8n bits, the highest first: the frame whose `frameNumber` it is (R90). -/
def frameOfNumber : Nat → Nat → List Byte
  | 0, _ => []
  | n + 1, w => BitVec.ofNat 8 (w >>> (8 * n)) :: frameOfNumber n w

/-! ## The decoder -/

/-- Why a frame is Illegal (R94). -/
inductive DecodeError where
  /-- n = 0: there is no opcode. -/
  | emptyFrame
  /-- c[0] is not in the table of R93. -/
  | unknownOpcode (op : Byte)
  /-- The frame has not the length of the opcode's format. -/
  | wrongLength (o : Opcode) (got : Nat)
  /-- A field fails the test of R92 that answers IllegalCommand. -/
  | illegalField (o : Opcode)
  deriving DecidableEq, Repr

/-- The operand fields of a frame of the right length (R91); nothing when the length is wrong. -/
def operandsOf (o : Opcode) (operands : List Byte) : Option Instr :=
  match o with
  | .busOpen => match operands with
    | [bus] => some (.busOpen bus)
    | _ => none
  | .busWrite => match operands with
    | [addr, reg, val] => some (.busWrite addr reg val)
    | _ => none
  | .busRead => match operands with
    | [addr, reg] => some (.busRead addr reg)
    | _ => none
  | .busClose => match operands with
    | [] => some .busClose
    | _ => none
  | .pwmConstruct => match operands with
    | [bus, addr, f3, f2, f1, f0] => some (.pwmConstruct bus addr (be32 f3 f2 f1 f0))
    | _ => none
  | .pwmSetTicks => match operands with
    | [ch, n1, n0, o1, o0] => some (.pwmSetTicks ch (be16 n1 n0) (be16 o1 o0))
    | _ => none
  | .pwmSetPulse => match operands with
    | [ch, p3, p2, p1, p0] => some (.pwmSetPulse ch (be32 p3 p2 p1 p0))
    | _ => none
  | .pwmStopAll => match operands with
    | [] => some .pwmStopAll
    | _ => none
  | .pwmClose => match operands with
    | [] => some .pwmClose
    | _ => none
  | .mapConstruct => match operands with
    | [sc, e3, e2, e1, e0, h3, h2, h1, h0, tc, g3, g2, g1, g0, j3, j2, j1, j0] =>
      some (.mapConstruct sc (be32 e3 e2 e1 e0) (be32 h3 h2 h1 h0) tc (be32 g3 g2 g1 g0) (be32 j3 j2 j1 j0))
    | _ => none
  | .mapSetSteering => match operands with
    | [x3, x2, x1, x0] => some (.mapSetSteering (be32 x3 x2 x1 x0))
    | _ => none
  | .mapSetThrottle => match operands with
    | [x3, x2, x1, x0] => some (.mapSetThrottle (be32 x3 x2 x1 x0))
    | _ => none
  | .mapRecalCenter => match operands with
    | [axis, e3, e2, e1, e0] => some (.mapRecalCenter axis (be32 e3 e2 e1 e0))
    | _ => none
  | .mapStop => match operands with
    | [] => some .mapStop
    | _ => none
  | .mapShutdown => match operands with
    | [] => some .mapShutdown
    | _ => none

/-- R94: decoding, total on any byte string: the opcode, then the length, then the fields' legal values. -/
def decode : List Byte → Except DecodeError Instr
  | [] => .error .emptyFrame
  | op :: operands =>
    match opcodeOf op with
    | none => .error (.unknownOpcode op)
    | some o =>
      match operandsOf o operands with
      | none => .error (.wrongLength o (operands.length + 1))
      | some i => if i.wellFormed then .ok i else .error (.illegalField o)

/-! ## The encoder -/

/-- The frame of a command (R90, R91, R93). -/
def encode (i : Instr) : List Byte :=
  i.opcode.code ::
    match i with
    | .busOpen bus => [bus]
    | .busWrite addr reg val => [addr, reg, val]
    | .busRead addr reg => [addr, reg]
    | .busClose => []
    | .pwmConstruct bus addr freq => bus :: addr :: bytes32 freq
    | .pwmSetTicks ch on off => ch :: (bytes16 on ++ bytes16 off)
    | .pwmSetPulse ch pulse => ch :: bytes32 pulse
    | .pwmStopAll => []
    | .pwmClose => []
    | .mapConstruct sCh sCenter sHalf tCh tCenter tHalf =>
      sCh :: (bytes32 sCenter ++ bytes32 sHalf ++ tCh :: (bytes32 tCenter ++ bytes32 tHalf))
    | .mapSetSteering cmd => bytes32 cmd
    | .mapSetThrottle cmd => bytes32 cmd
    | .mapRecalCenter axis center => axis :: bytes32 center
    | .mapStop => []
    | .mapShutdown => []

/-! ## The table's numbering of a frame's bits -/

/-- The frame whose bits are w, numbered as opcode_table.json numbers them: the frame is one number of nbits
bits, c[0] in the highest eight (R90, R93). Log entry 14. -/
def frameOfTableWord (nbits w : Nat) : List Byte := frameOfNumber (nbits / 8) w

/-- The command the decoder reads from a table word; nothing where it refuses. -/
def decodeTableWord (nbits w : Nat) : Option Instr :=
  match decode (frameOfTableWord nbits w) with
  | .ok i => some i
  | .error _ => none

/-! ## Assembler operands (R101, R102) -/

/-- One operand of the textual form of a command, already read as a number or as an axis name (R101). -/
inductive AsmOperand where
  /-- An integer or a decimal literal. -/
  | num (q : Q)
  /-- The word `steering`. -/
  | steering
  /-- The word `throttle`. -/
  | throttle
  deriving DecidableEq, Repr

/-- R101: a D6 operand is encoded as n = literal * 1_000_000 exactly; a literal that needs more than six
digits after the point or does not fit 32 bits is refused. -/
def assembleD6 : AsmOperand → Option D6
  | .num q =>
    let n := q * Config.d6Scale
    if n.den = 1 ∧ -2147483648 ≤ n.num ∧ n.num ≤ 2147483647 then some (BitVec.ofInt 32 n.num) else none
  | _ => none

/-- R101: an integer operand of a field of w bits; one that does not fit is refused. -/
def assembleInt (w : Nat) : AsmOperand → Option (BitVec w)
  | .num q => if q.den = 1 ∧ 0 ≤ q.num ∧ q.num < 2 ^ w then some (BitVec.ofInt w q.num) else none
  | _ => none

/-- R101: `axis` may be written as a number, as `steering` (0) or as `throttle` (1). -/
def assembleAxis : AsmOperand → Option Byte
  | .steering => some 0#8
  | .throttle => some 1#8
  | q => assembleInt 8 q

/-- The command of a textual line, its operands in field order (R101), with the one pseudo-instruction:
PWM_CONSTRUCT without its address means address 0x40 (R102). -/
def assemble : String → List AsmOperand → Option Instr
  | "BUS_OPEN", [b] => do return .busOpen (← assembleInt 8 b)
  | "BUS_WRITE", [a, r, v] => do return .busWrite (← assembleInt 8 a) (← assembleInt 8 r) (← assembleInt 8 v)
  | "BUS_READ", [a, r] => do return .busRead (← assembleInt 8 a) (← assembleInt 8 r)
  | "BUS_CLOSE", [] => some .busClose
  | "PWM_CONSTRUCT", [b, f] => do return .pwmConstruct (← assembleInt 8 b) Config.defaultDevAddr (← assembleD6 f)
  | "PWM_CONSTRUCT", [b, a, f] => do
    return .pwmConstruct (← assembleInt 8 b) (← assembleInt 8 a) (← assembleD6 f)
  | "PWM_SET_TICKS", [c, n, o] => do
    return .pwmSetTicks (← assembleInt 8 c) (← assembleInt 16 n) (← assembleInt 16 o)
  | "PWM_SET_PULSE", [c, p] => do return .pwmSetPulse (← assembleInt 8 c) (← assembleD6 p)
  | "PWM_STOP_ALL", [] => some .pwmStopAll
  | "PWM_CLOSE", [] => some .pwmClose
  | "MAP_CONSTRUCT", [sc, se, sh, tc, te, th] => do
    return .mapConstruct (← assembleInt 8 sc) (← assembleD6 se) (← assembleD6 sh)
      (← assembleInt 8 tc) (← assembleD6 te) (← assembleD6 th)
  | "MAP_SET_STEERING", [x] => do return .mapSetSteering (← assembleD6 x)
  | "MAP_SET_THROTTLE", [x] => do return .mapSetThrottle (← assembleD6 x)
  | "MAP_RECAL_CENTER", [a, e] => do return .mapRecalCenter (← assembleAxis a) (← assembleD6 e)
  | "MAP_STOP", [] => some .mapStop
  | "MAP_SHUTDOWN", [] => some .mapShutdown
  | _, _ => none

end Sys2Proof
end

