-- ==== Sys2Proof/Machine/Service.lean ====
section
/-! DEFINITION. What the idle block does between commands: the abort service (R241), reset (R270), and accepting
the next input. -/

namespace Sys2Proof.Machine

/-- R241: `AbortService()`, run when the idle block finds abort_pending. -/
def abortService (s : State) : State :=
  let s := { s with block := { s.block with abortPending := false } }
  if s.block.abortTaken then s
  else
    let s := { s with block := { s.block with abortTaken := true } }
    if s.block.mapState = .active then (shutdownBody s).2.abortServed (shutdownBody s).1
    else if s.block.busOwner = .pwc then (cleanup s).abortServed .ok
    else s.abortServed .ok

/-- R240: raising `abort` sets abort_pending. -/
def raiseAbort (s : State) : State := { s with block := { s.block with abortPending := true } }

/-- R270: reset of the idle block: every field at its reset value and the event Reset; no bus transaction, no
Close event, the target untouched (R272). -/
def applyReset (s : State) : State := { s with block := Block.reset }.emit .reset

/-- R95: the answer to an undecodable frame. -/
def refuseFrame (s : State) : State := failWith .illegalCommand s

/-- What the idle block does next: run a command, or something that is settled without one. -/
inductive Fetched where
  | run (i : Instr) (s : State)
  | settled (o : Host.Outcome State Fault Refusal)

/-- The idle block's next act. A pending abort is served before the next input (R241, R243; log entry 10), and the
service runs to its end, so that a reset comes before it or after it (DESIGN CHOICE, log entry 27); then the next
input is taken. With nothing sent the block waits (R271). -/
def fetch (s : State) : Fetched :=
  if s.block.abortPending then .settled (.next (abortService s))
  else
    match s.inputs with
    | [] => .settled (.next s)
    | .command frame :: rest =>
      match decode frame with
      | .ok i => .run i { s with inputs := rest }
      | .error _ => .settled (.next (refuseFrame { s with inputs := rest }))
    | .abort :: rest => .settled (.next (raiseAbort { s with inputs := rest }))
    | .reset :: rest => .settled (.next (applyReset { s with inputs := rest }))
    | .resetDuring _ :: _ => .settled (.fault .resetInProgress)
    | .foreignMaster :: rest =>
      .settled (if s.block.busOwner = .none then .next { s with inputs := rest } else .fault .secondMaster)

/-- The frame stands at the head of the command port and no abort is pending, so that the next act is to run it.
Log entry 9. -/
def offerFrame (s : State) (frame : List Byte) : State :=
  { s with
    block := { s.block with abortPending := false }
    inputs := .command frame :: s.inputs }

end Sys2Proof.Machine
end

