-- ==== Sys2Proof/Machine/Step.lean ====
section
/-! DEFINITION. One step of the machine: the idle block takes its next input and acts on it to the end (R30,
R76, 92 D32: a command runs as one atomic function). -/

namespace Sys2Proof.Machine

/-- One step. -/
def step (s : State) : Host.Outcome State Fault Refusal :=
  match fetch s with
  | .run i t => exec i t
  | .settled o => o

/-- The state in which the very next step runs the frame of a table word: the host has sent it (log entry 9). -/
def State.withFetchWord (s : State) (nbits w : Nat) : State := offerFrame s (frameOfTableWord nbits w)

end Sys2Proof.Machine
end

