-- ==== Sys2Proof/Safety.lean ====
section
/-! DEFINITION. The terms in which claims are stated: the events of each sequence as the spec lists them, what a
command leaves behind, and the invariant between commands. -/

namespace Sys2Proof.Machine

/-! ## Events -/

/-- A bus transaction: a `Wr` or `Rd` event (R10, R18). -/
def Event.isTransaction : Event → Bool
  | .wr _ _ _ _ => true
  | .rd _ _ _ => true
  | _ => false

/-- A response to the host (R10, R99). -/
def Event.isResponse : Event → Bool
  | .resp _ _ => true
  | _ => false

/-- The same transaction, not acknowledged (R10). -/
def Event.refused : Event → Event
  | .wr dev reg v _ => .wr dev reg v .nack
  | .rd dev reg _ => .rd dev reg none
  | e => e

/-- The trace of a sequence cut after its n-th event, which failed (R236); the whole sequence when n is its
length. -/
def cutAt (evs : List Event) (n : Nat) : List Event := evs.take n ++ ((evs.drop n).take 1).map Event.refused

/-- The cut is at the end of the sequence or at a bus transaction: nothing else can fail (R236). -/
def CutPoint (evs : List Event) (n : Nat) : Prop :=
  n = evs.length ∨ ∃ e, evs[n]? = some e ∧ e.isTransaction = true

/-- The status of a sequence cut at n: OK when nothing failed, else TransferError (R232). -/
def cutStatus (evs : List Event) (n : Nat) : Status := if n = evs.length then .ok else .error .transferError

/-- R106: the four writes of a tick pair, bytes and registers as integers (R156, R161). -/
def tickEvents (dev : DevAddr) (c : Byte) (on off : Tick) : List Event :=
  [.wr dev (BitVec.ofNat 8 (6 + 4 * c.toNat)) (BitVec.ofNat 8 (on.toNat % 256)) .ack,
   .wr dev (BitVec.ofNat 8 (7 + 4 * c.toNat)) (BitVec.ofNat 8 (on.toNat / 256)) .ack,
   .wr dev (BitVec.ofNat 8 (8 + 4 * c.toNat)) (BitVec.ofNat 8 (off.toNat % 256)) .ack,
   .wr dev (BitVec.ofNat 8 (9 + 4 * c.toNat)) (BitVec.ofNat 8 (off.toNat / 256)) .ack]

/-- R202: the writes that command axis a to x, from the block's calibration and frequency. -/
def axisEvents (b : Block) (a : Axis) (x : Q) : List Event :=
  tickEvents b.devAddr (b.cal a).channel 0#12 (dutyTick (mapPulse (b.cal a) x) b.freq)

/-- R206: throttle to its centre, then steering. -/
def stopEvents (b : Block) : List Event := axisEvents b .throttle 0 ++ axisEvents b .steering 0

/-- R178: zero to the 64 registers 0x06 .. 0x45, ascending. -/
def stopAllEvents (dev : DevAddr) : List Event :=
  (List.range 64).map fun k => .wr dev (BitVec.ofNat 8 (6 + k)) 0x00#8 .ack

/-- R208: neutral, the settle wait, the electrical stop. -/
def shutdownEvents (b : Block) : List Event :=
  stopEvents b ++ .delay .settleNeutral :: stopAllEvents b.devAddr

/-- R172, R107: the init sequence when step 2 returned m. -/
def initEvents (dev : DevAddr) (p : Params) (prescale m : Byte) : List Event :=
  [.wr dev 0x00#8 0x00#8 .ack, .rd dev 0x00#8 (some m), .wr dev 0x00#8 (m ||| p.sleepMask) .ack,
   .wr dev 0xFE#8 prescale .ack, .wr dev 0x00#8 m .ack, .delay .settleWake,
   .wr dev 0x00#8 (m ||| p.resumeMask) .ack]

/-- R173: the 64 best-effort zero writes, each with its own outcome, then Close. -/
def cleanupEvents (dev : DevAddr) (acks : List Bool) : List Event :=
  (acks.mapIdx fun k a => .wr dev (BitVec.ofNat 8 (6 + k)) 0x00#8 (if a then .ack else .nack)) ++ [.closed]

/-! ## What the environment will answer -/

/-- The next n transactions to device `dev` will be acknowledged: by the script, or by the reference target at
that address once the script is used up (R11, R81). -/
def Env.grants (e : Env) (dev : DevAddr) (n : Nat) : Prop :=
  (∀ r ∈ e.replies.take n, r.ok = true) ∧
    (n ≤ e.replies.length ∨ ∃ fill regs, e.target = .reference dev fill regs)

/-! ## What a command leaves behind -/

/-- What the target has accepted after some events on one port: the acknowledged writes among them, in order
(R33, R68; log entry 13). -/
def replay (m : Memory) (bus : Byte) : List Event → Memory
  | [] => m
  | .wr dev reg v .ack :: rest => replay (m.write (location bus dev reg) v) bus rest
  | _ :: rest => replay m bus rest

/-- From s to t the machine produced exactly the events `evs`, with the block's record now `b`: the trace grew by
them, the wires carried one frame for each transaction among them, the accepted bytes are those of the acknowledged
writes among them, and the parameters and the inputs are as before. -/
structure Produced (s t : State) (evs : List Event) (b : Block) : Prop where
  trace : t.trace = s.trace ++ evs
  wire : t.wire.length = s.wire.length + evs.countP Event.isTransaction
  mem : t.mem = replay s.mem b.busIndex evs
  params : t.params = s.params
  inputs : t.inputs = s.inputs
  block : t.block = b

/-- A command that produced `evs`, answered `st`, and left the block's record as `b` but for last_status. -/
def Answered (s t : State) (evs : List Event) (st : Status) (b : Block) : Prop :=
  Produced s t (evs ++ [.resp st none]) { b with lastStatus := st }

/-- A command refused with no effect: only the response (R170, R235). -/
def Refuses (i : Instr) (s : State) (e : Error) : Prop :=
  ∃ t, exec i s = .next t ∧ Answered s t [] (.error e) s.block ∧ t.wire = s.wire ∧ t.env = s.env

/-- The locations a command may store to (R62, R70), computed as its meaning computes them. -/
def storedLocations (i : Instr) (s : State) : List Nat :=
  let at' := fun (bus : Byte) (dev : DevAddr) (regs : List Byte) => regs.map (location bus dev)
  let own := at' s.block.busIndex s.block.devAddr
  let all := allChannels.flatMap channelRegs
  match i with
  | .busOpen _ => []
  | .busWrite addr reg _ => at' s.block.busIndex (devOf addr) [reg]
  | .busRead _ _ => []
  | .busClose => []
  | .pwmConstruct bus addr _ => at' bus (devOf addr) (Config.regMode :: Config.regPrescale :: all)
  | .pwmSetTicks ch _ _ => own (channelRegs ch)
  | .pwmSetPulse ch _ => own (channelRegs ch)
  | .pwmStopAll => own all
  | .pwmClose => []
  | .mapConstruct sCh _ _ tCh _ _ => own (channelRegs sCh ++ channelRegs tCh ++ all)
  | .mapSetSteering _ => own (channelRegs s.block.calSteering.channel)
  | .mapSetThrottle _ => own (channelRegs s.block.calThrottle.channel)
  | .mapRecalCenter _ _ => []
  | .mapStop => own (channelRegs s.block.calThrottle.channel ++ channelRegs s.block.calSteering.channel)
  | .mapShutdown =>
    own (channelRegs s.block.calThrottle.channel ++ channelRegs s.block.calSteering.channel ++ all)

/-- The raw commands of the Bus Register Driver (R62). -/
def isRaw (i : Instr) : Bool :=
  match i.opcode with
  | .busOpen | .busWrite | .busRead | .busClose => true
  | .pwmConstruct | .pwmSetTicks | .pwmSetPulse | .pwmStopAll | .pwmClose => false
  | .mapConstruct | .mapSetSteering | .mapSetThrottle | .mapRecalCenter | .mapStop | .mapShutdown => false

/-! ## The invariant between commands -/

/-- The reference target's registers, when it is the target, are in canonical form. -/
def Env.wf (e : Env) : Bool :=
  match e.target with
  | .oracle => true
  | .reference _ _ regs => regs.wf

/-- What holds whenever the block is idle (R21, R23, R26, R27, R37; 90_conflicts.md C2). -/
structure Inv (s : State) : Prop where
  /-- BUS_COUNT is at least 1 (R7). -/
  ports : 1 ≤ s.params.busCount
  /-- The accepted bytes are in canonical form. -/
  memory : s.mem.wf = true
  /-- So are the reference target's registers. -/
  device : s.env.wf = true
  /-- Sleeping is never observable between two commands (C2). -/
  notSleeping : s.block.ctlState ≠ .sleeping
  /-- The controller holds the handle exactly when it is awake (R37 d). -/
  owned : s.block.busOwner = .pwc ↔ s.block.ctlState = .awake
  /-- An open handle is on an existing port (R22, R130). -/
  port : s.block.busOwner ≠ .none → s.block.busIndex.toNat < s.params.busCount
  /-- The prescale programmed is the valid prescale of the stored frequency (R25, R26). -/
  programmed : s.block.ctlState = .awake →
    prescaleValid s.params s.block.freq = true ∧ (s.block.prescale.toNat : Int) = prescaleOf s.block.freq
  /-- Once a Mapper was constructed, both records are valid and name channels 0..15 (R27, R37 c). -/
  calibrated : s.block.mapState ≠ .unconstructed → ∀ a,
    (s.block.cal a).channel.toNat ≤ 15 ∧
      calibrationValid s.params (s.block.cal a).center (s.block.cal a).half = true
  /-- An active Mapper has an awake controller, or one the host closed (R37 e, R200). -/
  active : s.block.mapState = .active → s.block.ctlState = .awake ∨ s.block.ctlState = .closed
  /-- After a shutdown the controller is closed (R208). -/
  shut : s.block.mapState = .shutDown → s.block.ctlState = .closed

end Sys2Proof.Machine
end

