-- ==== Sys2Proof/Certificates/Slice0/Obligations.lean ====
section
/-! DEFINITION. The statements for the provers, from the numbered rules of spec/. -/

open Sys2Proof Sys2Proof.Machine

/-! ## Encodings (30_encoding.md) -/

/-- Section 1 to 3: the frame of a well-formed command decodes to it, with every operand at every value. -/
def Obligations.DecodeEncodeRoundTrip : Prop :=
  ∀ i : Instr, i.WellFormed → decode (encode i) = .ok i

/-- Section 1 to 3: every frame has one meaning: a frame that decodes is the frame of the command it decodes to. -/
def Obligations.EncodeDecodeRoundTrip : Prop :=
  ∀ (c : List Byte) (i : Instr), decode c = .ok i → i.WellFormed ∧ encode i = c ∧ c.length = i.opcode.frameLength

/-- Section 3: a frame of a row's length decodes to the row exactly when frame and mask give match. -/
def Obligations.FrameDecodesExactlyWhenItMatchesItsRow : Prop :=
  ∀ (c : List Byte) (o : Opcode), c.length = o.frameLength →
    ((∃ i, i.opcode = o ∧ decode c = .ok i) ↔ frameNumber c &&& o.mask = o.pattern)

/-- Vector E1 of 95_test_vectors.md: frames written out from the encodings decode to their commands. -/
def Obligations.SpecFramesDecode : Prop :=
  decode [0x01#8, 0x00#8] = .ok (.busOpen 0#8) ∧
  decode [0x02#8, 0x40#8, 0xFE#8, 0x65#8] = .ok (.busWrite 0x40#8 0xFE#8 0x65#8) ∧
  decode [0x03#8, 0x40#8, 0x00#8] = .ok (.busRead 0x40#8 0x00#8) ∧
  decode [0x10#8, 0x01#8, 0x40#8, 0x03#8, 0x93#8, 0x87#8, 0x00#8] =
    .ok (.pwmConstruct 1#8 0x40#8 (BitVec.ofInt 32 60000000)) ∧
  decode [0x11#8, 0x0F#8, 0x00#8, 0x00#8, 0x0F#8, 0xFF#8] = .ok (.pwmSetTicks 15#8 0#16 4095#16) ∧
  decode [0x21#8, 0xFF#8, 0xF0#8, 0xBD#8, 0xC0#8] = .ok (.mapSetSteering (BitVec.ofInt 32 (-1000000))) ∧
  decode [0x25#8] = .ok .mapShutdown

/-- R95: an undecodable frame is answered IllegalCommand and has no other effect; which frames those are. -/
def Obligations.IllegalFramesHaveNoOtherEffect : Prop :=
  (∀ (op : Byte) (operands : List Byte),
    (op.toNat = 0 ∨ (0x05 ≤ op.toNat ∧ op.toNat ≤ 0x0F) ∨ (0x15 ≤ op.toNat ∧ op.toNat ≤ 0x1F) ∨
      0x26 ≤ op.toNat) → decode (op :: operands) = .error (.unknownOpcode op)) ∧
  decode [] = .error .emptyFrame ∧
  (∀ (op : Byte) (o : Opcode) (operands : List Byte), opcodeOf op = some o →
    operands.length + 1 ≠ o.frameLength → ∃ e, decode (op :: operands) = .error e) ∧
  (∀ i : Instr, ¬ i.WellFormed → decode (encode i) = .error (.illegalField i.opcode)) ∧
  ∀ (s : State) (frame : List Byte) (rest : List Input) (e : DecodeError),
    s.block.abortPending = false → s.inputs = .command frame :: rest → decode frame = .error e →
    ∃ t, step s = .next t ∧ t.trace = s.trace ++ [.resp (.error .illegalCommand) none] ∧
      t.block = { s.block with lastStatus := .error .illegalCommand } ∧ t.mem = s.mem ∧ t.wire = s.wire ∧
      t.env = s.env ∧ t.params = s.params ∧ t.inputs = rest

/-- R96: a D6 field denotes its signed big-endian integer over 1_000_000, and a decimal literal that has a field
is represented exactly. -/
def Obligations.D6FieldsDenoteExactMillionths : Prop :=
  (∀ b3 b2 b1 b0 : Byte, d6Value (be32 b3 b2 b1 b0) =
    (((if 128 ≤ b3.toNat then -4294967296 else 0) + 16777216 * (b3.toNat : Int) + 65536 * (b2.toNat : Int)
      + 256 * (b1.toNat : Int) + (b0.toNat : Int) : Int) : Q) / 1000000) ∧
  (∀ (q : Q) (n : D6), assembleD6 (.num q) = some n → d6Value n = q) ∧
  (∀ k : Int, -2147480000 < k → k < 2147480000 →
    ∃ n, assembleD6 (.num ((k : Q) / 1000000)) = some n ∧ d6Value n = (k : Q) / 1000000) ∧
  ∀ n : D6, assembleD6 (.num (d6Value n)) = some n

/-- A step at a state whose next input is a frame that decodes is `exec` of the decoded command, with the input
taken; so is the step of a state made by `withFetchWord`. -/
def Obligations.StepRunsTheDecodedCommand : Prop :=
  (∀ (s : State) (frame : List Byte) (rest : List Input) (i : Instr),
    s.block.abortPending = false → s.inputs = .command frame :: rest → decode frame = .ok i →
    step s = exec i { s with inputs := rest }) ∧
  ∀ (s : State) (nbits w : Nat) (i : Instr), decodeTableWord nbits w = some i →
    step (s.withFetchWord nbits w) = exec i { s with block := { s.block with abortPending := false } }

/-- R103, R104, R105: the frames on the wires, Ack exactly when all three acknowledge bits are received, and the
stop at once after a failure. -/
def Obligations.WireFramesFollowTheirRules : Prop :=
  (∀ b : Byte, masterByte b = (List.range 8).map fun k => .master (b.getMsbD k)) ∧
  (∀ b : Byte, targetByte b = (List.range 8).map fun k => .target (b.getMsbD k)) ∧
  (∀ r : Reply, r.ok = true ↔ r.first = .ack ∧ r.second = .ack ∧ r.third = .ack) ∧
  (∀ (dev : DevAddr) (reg v : Byte) (r : Reply), r.ok = true →
    writeFrame dev reg v r = [.start] ++ masterByte (dev ++ 0#1) ++ [.target false] ++ masterByte reg
      ++ [.target false] ++ masterByte v ++ [.target false, .stop]) ∧
  (∀ (dev : DevAddr) (reg : Byte) (r : Reply), r.ok = true →
    readFrame dev reg r = [.start] ++ masterByte (dev ++ 0#1) ++ [.target false] ++ masterByte reg
      ++ [.target false, .restart] ++ masterByte (dev ++ 1#1) ++ [.target false] ++ targetByte r.data
      ++ [.master true, .stop]) ∧
  (∀ (dev : DevAddr) (reg v : Byte) (r : Reply), r.ok = false →
    ∃ (sent : List WireSym) (sym : WireSym), sym ∈ [.target true, .timeout] ∧
      writeFrame dev reg v r = sent ++ [sym, .stop] ∧
      sent.length = (if r.first ≠ .ack then 9 else if r.second ≠ .ack then 18 else 27) ∧
      sent <+: [.start] ++ masterByte (dev ++ 0#1) ++ [.target false] ++ masterByte reg ++ [.target false]
        ++ masterByte v) ∧
  (∀ (dev : DevAddr) (reg : Byte) (r : Reply), r.ok = false →
    ∃ (sent : List WireSym) (sym : WireSym), sym ∈ [.target true, .timeout] ∧
      readFrame dev reg r = sent ++ [sym, .stop] ∧
      sent.length = (if r.first ≠ .ack then 9 else if r.second ≠ .ack then 18 else 28) ∧
      sent <+: [.start] ++ masterByte (dev ++ 0#1) ++ [.target false] ++ masterByte reg
        ++ [.target false, .restart] ++ masterByte (dev ++ 1#1)) ∧
  (∀ (dev : DevAddr) (reg v : Byte) (s : State), (s.env.nextReply dev reg).1.ok = false →
    ∃ t, memWrite dev reg v s = .raised .transferError t) ∧
  ∀ (dev : DevAddr) (reg : Byte) (s : State), (s.env.nextReply dev reg).1.ok = false →
    ∃ t, memRead dev reg s = .raised .transferError t

/-- R100: the status codes, one per status. -/
def Obligations.StatusCodesAreDistinct : Prop :=
  (Status.ok.code, Status.code (.error .busUnavailable), Status.code (.error .transferError),
    Status.code (.error .invalidChannel)) = (0x00#8, 0x01#8, 0x02#8, 0x03#8) ∧
  (Status.code (.error .outOfRangeCalibration), Status.code (.error .configError),
    Status.code (.error .invalidState), Status.code (.error .illegalCommand)) = (0x04#8, 0x05#8, 0x06#8, 0x07#8) ∧
  (∀ st st' : Status, st.code = st'.code → st = st') ∧ ∀ st : Status, st.code.toNat < 8

/-! ## Arithmetic (41_numerics.md) -/

/-- Section 1: the prescale is the nearest integer to 25_000_000/(4096 f) - 1, ties up, at least -1, and does not
increase with the frequency. -/
def Obligations.PrescaleRoundsAndDoesNotIncrease : Prop :=
  (∀ f : Q, 0 < f → ((prescaleOf f : Int) : Q) ≤ 25000000 / (4096 * f) - 1 + 1 / 2 ∧
    25000000 / (4096 * f) - 1 + 1 / 2 < ((prescaleOf f : Int) : Q) + 1 ∧ -1 ≤ prescaleOf f) ∧
  ∀ f g : Q, 0 < f → f ≤ g → prescaleOf g ≤ prescaleOf f

/-- Section 1, 90_conflicts.md C1: 101 at 60 Hz; the two exact ties go up. -/
def Obligations.PrescaleAtSixtyHertz : Prop :=
  prescaleOf 60 = 101 ∧ prescaleOf (15625 / 32) = 12 ∧ prescaleOf (3125 / 32) = 62

/-- Section 1: the prescale test, the interval of frequencies it accepts, and the byte it fits. The bounds 3 and
255 are the spec's defaults of the parameters (log entry 6). -/
def Obligations.PrescaleValidOnItsInterval : Prop :=
  ∀ (p : Params) (f : Q), p.prescaleMin = 3#8 → p.prescaleMax = 255#8 →
    (prescaleValid p f = true ↔ 0 < f ∧ 3 ≤ prescaleOf f ∧ prescaleOf f ≤ 255) ∧
    (prescaleValid p f = true ↔ 390625 / 16416 < f ∧ f ≤ 390625 / 224) ∧
    (prescaleValid p f = true → ((prescaleByte f).toNat : Int) = prescaleOf f)

/-- R153: a pulse width below 0.5 is 0.5, above 2.5 is 2.5, else itself. -/
def Obligations.PulseIsClampedToItsRange : Prop :=
  ∀ p : Q, (p < 1 / 2 → clampPulse p = 1 / 2) ∧ (5 / 2 < p → clampPulse p = 5 / 2) ∧
    (1 / 2 ≤ p → p ≤ 5 / 2 → clampPulse p = p)

/-- Section 2: duty ticks saturate at 4095 and fit 12 bits; where the saturation begins. -/
def Obligations.DutyTicksSaturate : Prop :=
  ∀ p f : Q, 0 < f →
    dutyTicks p f = min (ticksOf (clampPulse p) f) 4095 ∧ 0 ≤ dutyTicks p f ∧ dutyTicks p f ≤ 4095 ∧
    ((dutyTick p f).toNat : Int) = dutyTicks p f ∧
    (4095 < ticksOf (5 / 2) f ↔ 204775 / 512 ≤ f) ∧
    (f < 204775 / 512 → dutyTicks p f = ticksOf (clampPulse p) f)

/-- Section 2: ticks back to a pulse width lie within half a tick. -/
def Obligations.TicksRoundTripWithinHalfATick : Prop :=
  ∀ p f : Q, 0 < f → |ticksToPulse (ticksOf p f) f - p| ≤ 500 / (f * 4096)

/-- Section 2: ticks are the nearest integer to p * f * 4096 / 1000, ties up; they do not decrease with the pulse
width; at 60 Hz they run from 123 to 614. -/
def Obligations.TicksDoNotDecrease : Prop :=
  (∀ p f : Q, ((ticksOf p f : Int) : Q) ≤ p * f * 4096 / 1000 + 1 / 2 ∧
    p * f * 4096 / 1000 + 1 / 2 < ((ticksOf p f : Int) : Q) + 1) ∧
  (∀ p q f : Q, 0 < f → p ≤ q → ticksOf p f ≤ ticksOf q f) ∧
  (∀ p : Q, 1 / 2 ≤ p → p ≤ 5 / 2 → 123 ≤ ticksOf p 60 ∧ ticksOf p 60 ≤ 614) ∧
  ticksOf (1 / 2) 60 = 123 ∧ ticksOf (5 / 2) 60 = 614

/-- R156: the two bytes of a 12-bit tick value. -/
def Obligations.TickBytesSplitTheTick : Prop :=
  ∀ t : Tick, (tickLow t).toNat = t.toNat % 256 ∧ (tickHigh t).toNat = t.toNat / 256 ∧
    (tickHigh t).toNat ≤ 15 ∧ t.toNat = 256 * (tickHigh t).toNat + (tickLow t).toNat

/-- R161: the base register, its range, and that the channel test comes first. -/
def Obligations.BaseRegisterNeverOverflows : Prop :=
  (∀ c : Byte, c.toNat ≤ 15 → (baseReg c).toNat = 0x06 + 4 * c.toNat ∧ 0x06 ≤ (baseReg c).toNat ∧
    (baseReg c).toNat ≤ 0x42 ∧ ∀ k ≤ 3, (baseReg c + BitVec.ofNat 8 k).toNat = 0x06 + 4 * c.toNat + k ∧
      (baseReg c + BitVec.ofNat 8 k).toNat ≤ 0x45) ∧
  ∀ (c : Byte) (on off : Tick) (s : State), 15 < c.toNat →
    setChannelTicks c on off s = .raised .invalidChannel s

/-- R158: the command is clamped to [-1, 1]; commands with the same clamped value do the same, so 2.0 does what
1.0 does and -2.0 what -1.0 does. -/
def Obligations.CommandIsClamped : Prop :=
  (∀ x : Q, (x < -1 → clampCommand x = -1) ∧ (1 < x → clampCommand x = 1) ∧
    (-1 ≤ x → x ≤ 1 → clampCommand x = x)) ∧
  (∀ (x y : D6) (s : State), clampCommand (d6Value x) = clampCommand (d6Value y) →
    exec (.mapSetSteering x) s = exec (.mapSetSteering y) s ∧
      exec (.mapSetThrottle x) s = exec (.mapSetThrottle y) s) ∧
  ∀ s : State,
    exec (.mapSetSteering (BitVec.ofInt 32 2000000)) s = exec (.mapSetSteering (BitVec.ofInt 32 1000000)) s ∧
    exec (.mapSetSteering (BitVec.ofInt 32 (-2000000))) s = exec (.mapSetSteering (BitVec.ofInt 32 (-1000000))) s

/-- Section 3: the mapped pulse, what a valid record is, and that the pulse of a valid record lies in center ± half
and needs no pulse clamp; command 0 gives the centre. The safe range [0.5, 2.5] is the spec's default of the
parameters (log entry 6). -/
def Obligations.MapPulseStaysInTheRecordsRange : Prop :=
  (∀ (k : Cal) (x : Q), -1 ≤ x → x ≤ 1 → mapPulse k x = k.center + x * k.half) ∧
  ∀ (p : Params) (k : Cal) (x : Q), p.safeMinMs = 1 / 2 → p.safeMaxMs = 5 / 2 →
    (calibrationValid p k.center k.half = true ↔
      0 ≤ k.half ∧ 1 / 2 ≤ k.center - k.half ∧ k.center + k.half ≤ 5 / 2) ∧
    (calibrationValid p k.center k.half = true →
      k.center - k.half ≤ mapPulse k x ∧ mapPulse k x ≤ k.center + k.half ∧
        clampPulse (mapPulse k x) = mapPulse k x ∧ mapPulse k 0 = k.center)

/-! ## Transactions and the Bus Register Driver (20_memory.md, 40_bus_register_driver.md) -/

/-- R64, R65: one transaction, one event; Ack returns, Nack raises TransferError; no state of the block changes.
(The accepted bytes are the model's own record, log entry 13.) -/
def Obligations.TransactionsAreDoneOnce : Prop :=
  (∀ (dev : DevAddr) (reg v : Byte) (s : State),
    ∃ t, t.block = s.block ∧
      t.wire = s.wire ++ [⟨s.block.busIndex, writeFrame dev reg v (s.env.nextReply dev reg).1⟩] ∧
      if (s.env.nextReply dev reg).1.ok then
        memWrite dev reg v s = .done () t ∧ t.trace = s.trace ++ [.wr dev reg v .ack]
      else memWrite dev reg v s = .raised .transferError t ∧ t.trace = s.trace ++ [.wr dev reg v .nack]) ∧
  ∀ (dev : DevAddr) (reg : Byte) (s : State),
    ∃ t, t.block = s.block ∧
      t.wire = s.wire ++ [⟨s.block.busIndex, readFrame dev reg (s.env.nextReply dev reg).1⟩] ∧
      if (s.env.nextReply dev reg).1.ok then
        memRead dev reg s = .done (s.env.nextReply dev reg).1.data t ∧
          t.trace = s.trace ++ [.rd dev reg (some (s.env.nextReply dev reg).1.data)]
      else memRead dev reg s = .raised .transferError t ∧ t.trace = s.trace ++ [.rd dev reg none]

/-- R134 (with R130): BUS_OPEN in every state: refused when a handle is held or the port does not exist, else the
environment decides. -/
def Obligations.BusOpenClaimsAFreePort : Prop :=
  (∀ bus : Byte, decode [0x01#8, bus] = .ok (.busOpen bus)) ∧
  ∀ (s : State) (bus : Byte),
    ((s.block.busOwner ≠ .none ∨ s.params.busCount ≤ bus.toNat) →
      ∃ t, exec (.busOpen bus) s = .next t ∧ Answered s t [.openFail bus] (.error .busUnavailable) s.block ∧
        t.env = s.env) ∧
    (s.block.busOwner = .none → bus.toNat < s.params.busCount →
      ∃ t, exec (.busOpen bus) s = .next t ∧
        if s.env.nextOpen.1 then
          Answered s t [.opened bus] .ok { s.block with busOwner := .host, busIndex := bus }
        else Answered s t [.openFail bus] (.error .busUnavailable) s.block)

/-- R135: BUS_WRITE. -/
def Obligations.BusWriteDoesOneTransaction : Prop :=
  (∀ addr reg val : Byte, decode [0x02#8, addr, reg, val] =
    if addr.toNat < 128 then .ok (.busWrite addr reg val) else .error (.illegalField .busWrite)) ∧
  ∀ (s : State) (addr reg val : Byte),
    (s.block.busOwner ≠ .host → Refuses (.busWrite addr reg val) s .invalidState) ∧
    (s.block.busOwner = .host → (devOf addr).toNat = addr.toNat % 128 ∧
      ∃ t, exec (.busWrite addr reg val) s = .next t ∧
        if (s.env.nextReply (devOf addr) reg).1.ok then
          Answered s t [.wr (devOf addr) reg val .ack] .ok s.block
        else Answered s t [.wr (devOf addr) reg val .nack] (.error .transferError) s.block)

/-- R136: BUS_READ; a successful response carries the byte the target returned, whatever it is. -/
def Obligations.BusReadReturnsTheTargetsByte : Prop :=
  (∀ addr reg : Byte, decode [0x03#8, addr, reg] =
    if addr.toNat < 128 then .ok (.busRead addr reg) else .error (.illegalField .busRead)) ∧
  ∀ (s : State) (addr reg : Byte),
    (s.block.busOwner ≠ .host → Refuses (.busRead addr reg) s .invalidState) ∧
    (s.block.busOwner = .host → (devOf addr).toNat = addr.toNat % 128 ∧
      ∃ t, exec (.busRead addr reg) s = .next t ∧
        if (s.env.nextReply (devOf addr) reg).1.ok then
          Produced s t [.rd (devOf addr) reg (some (s.env.nextReply (devOf addr) reg).1.data),
            .resp .ok (some (s.env.nextReply (devOf addr) reg).1.data)] { s.block with lastStatus := .ok }
        else Answered s t [.rd (devOf addr) reg none] (.error .transferError) s.block)

/-- R137: BUS_CLOSE; a second one is refused. -/
def Obligations.BusCloseReleasesTheHostsHandle : Prop :=
  decode [0x04#8] = .ok .busClose ∧
  ∀ s : State,
    (s.block.busOwner ≠ .host → Refuses .busClose s .invalidState) ∧
    (s.block.busOwner = .host →
      ∃ t, exec .busClose s = .next t ∧ Answered s t [.closed] .ok { s.block with busOwner := .none } ∧
        t.env = s.env ∧ Refuses .busClose t .invalidState)

/-- Ownership (40_bus_register_driver.md section 1, 60_exceptions.md section 5): no raw command reaches the bus
unless the host owns the handle, and no other command while the host owns it. -/
def Obligations.OnlyTheOwnerReachesTheBus : Prop :=
  ∀ (i : Instr) (s t : State), Inv s → exec i s = .next t →
    (isRaw i = true ∧ s.block.busOwner ≠ .host ∨ isRaw i = false ∧ s.block.busOwner = .host) →
    (∃ evs, t.trace = s.trace ++ evs ∧ ∀ e ∈ evs, e.isTransaction = false) ∧ t.mem = s.mem ∧ t.wire = s.wire

/-- What each side answers while the other holds the handle (40_bus_register_driver.md section 1). The rest is in
the commands' own tests: PWM_CONSTRUCT tests its state before it opens (42_pwm_controller.md sections 1 and 3);
MAP_RECAL_CENTER needs only an active Mapper and leaves the bus alone (43_motion_mapper.md sections 1 and 2, log
entry 25); MAP_SHUTDOWN answers OK when already shut down (log entry 25), and ends an active Mapper, the handle
staying the host's (log entry 26). -/
def Obligations.OtherSideIsKeptOutWhileTheHandleIsHeld : Prop :=
  ∀ s : State, Inv s →
    (s.block.busOwner = .pwc →
      (∀ addr reg v, Refuses (.busWrite addr reg v) s .invalidState) ∧
      (∀ addr reg, Refuses (.busRead addr reg) s .invalidState) ∧ Refuses .busClose s .invalidState ∧
      ∀ bus, ∃ t, exec (.busOpen bus) s = .next t ∧
        Answered s t [.openFail bus] (.error .busUnavailable) s.block) ∧
    (s.block.busOwner = .host →
      (∀ i : Instr, isRaw i = false → i.opcode ≠ .pwmConstruct → i.opcode ≠ .mapShutdown →
        i.opcode ≠ .mapRecalCenter → Refuses i s .invalidState) ∧
      (∀ axis center, (s.block.mapState ≠ .active → Refuses (.mapRecalCenter axis center) s .invalidState) ∧
        ∃ t st cal₀ cal₁, exec (.mapRecalCenter axis center) s = .next t ∧ t.wire = s.wire ∧ t.env = s.env ∧
          Answered s t [] st { s.block with calSteering := cal₀, calThrottle := cal₁ }) ∧
      (∀ bus addr freq,
        (s.block.ctlState ≠ .uninitialized → Refuses (.pwmConstruct bus addr freq) s .invalidState) ∧
        (s.block.ctlState = .uninitialized → ∃ t, exec (.pwmConstruct bus addr freq) s = .next t ∧
          Answered s t [.openFail bus] (.error .busUnavailable) s.block)) ∧
      (s.block.mapState ≠ .shutDown → ∃ t, exec .mapShutdown s = .next t ∧
        Answered s t [] (.error .invalidState)
          { s.block with mapState := if s.block.mapState = .active then .shutDown else s.block.mapState }) ∧
      (s.block.mapState = .shutDown → ∃ t, exec .mapShutdown s = .next t ∧ Answered s t [] .ok s.block))

/-! ## The PWM Controller (42_pwm_controller.md) -/

/-- R172: the init sequence: the events in order up to the first failure, saved_mode, the points at which
ctl_state changes. -/
def Obligations.InitSequenceRunsInOrder : Prop :=
  ∀ s : State, ∃ (m : Byte) (n : Nat) (t : State), n ≤ 7 ∧
    CutPoint (initEvents s.block.devAddr s.params s.block.prescale m) n ∧
    initSequence s = (if n = 7 then .done () t else .raised .transferError t) ∧
    Produced s t (cutAt (initEvents s.block.devAddr s.params s.block.prescale m) n)
      { s.block with
        savedMode := if 2 ≤ n then m else s.block.savedMode
        ctlState := if n = 7 then .awake else if 3 ≤ n then .sleeping else s.block.ctlState } ∧
    (s.env.grants s.block.devAddr 6 → n = 7)

/-- R173: the cleanup attempts all 64 zero writes whatever fails, closes, and ends Closed; without a PWC handle it
does nothing. -/
def Obligations.CleanupAttemptsEveryWrite : Prop :=
  ∀ s : State,
    (s.block.busOwner = .pwc → ∃ acks : List Bool, acks.length = 64 ∧
      Produced s (cleanup s) (cleanupEvents s.block.devAddr acks)
        { s.block with busOwner := .none, ctlState := .closed }) ∧
    (s.block.busOwner ≠ .pwc → cleanup s = s)

/-- R171: PWM_CONSTRUCT: the state test, the open, the frequency test with the cleanup, the init sequence with the
cleanup on failure. -/
def Obligations.ConstructProgramsTheTarget : Prop :=
  (∀ bus addr f3 f2 f1 f0 : Byte, decode [0x10#8, bus, addr, f3, f2, f1, f0] =
    if addr.toNat < 128 then .ok (.pwmConstruct bus addr (be32 f3 f2 f1 f0))
    else .error (.illegalField .pwmConstruct)) ∧
  (∀ (p : Params) (n : D6), p.prescaleMin = 3#8 → p.prescaleMax = 255#8 →
    (prescaleValid p (d6Value n) = true ↔ 23795383 ≤ n.toInt ∧ n.toInt ≤ 1743861607)) ∧
  ∀ (s : State) (bus addr : Byte) (freq : D6),
    (s.block.ctlState ≠ .uninitialized → Refuses (.pwmConstruct bus addr freq) s .invalidState) ∧
    (s.block.ctlState = .uninitialized →
      (s.block.busOwner ≠ .none ∨ s.params.busCount ≤ bus.toNat ∨ s.env.nextOpen.1 = false) →
      ∃ t, exec (.pwmConstruct bus addr freq) s = .next t ∧
        Answered s t [.openFail bus] (.error .busUnavailable) s.block) ∧
    (s.block.ctlState = .uninitialized → s.block.busOwner = .none → bus.toNat < s.params.busCount →
      s.env.nextOpen.1 = true → prescaleValid s.params (d6Value freq) = false →
      ∃ (t : State) (acks : List Bool), acks.length = 64 ∧ exec (.pwmConstruct bus addr freq) s = .next t ∧
        Answered s t (.opened bus :: cleanupEvents (devOf addr) acks) (.error .configError)
          { s.block with busIndex := bus, devAddr := devOf addr, ctlState := .closed } ∧
        Refuses .pwmClose t .invalidState) ∧
    (s.block.ctlState = .uninitialized → s.block.busOwner = .none → bus.toNat < s.params.busCount →
      s.env.nextOpen.1 = true → prescaleValid s.params (d6Value freq) = true →
      ∃ (m : Byte) (n : Nat) (t : State) (acks : List Bool), n ≤ 7 ∧
        CutPoint (initEvents (devOf addr) s.params (prescaleByte (d6Value freq)) m) n ∧ acks.length = 64 ∧
        exec (.pwmConstruct bus addr freq) s = .next t ∧
        Answered s t
          (.opened bus :: (cutAt (initEvents (devOf addr) s.params (prescaleByte (d6Value freq)) m) n ++
            if n = 7 then [] else cleanupEvents (devOf addr) acks))
          (if n = 7 then .ok else .error .transferError)
          { s.block with
            busOwner := if n = 7 then .pwc else .none
            busIndex := bus
            ctlState := if n = 7 then .awake else .closed
            devAddr := devOf addr
            freq := d6Value freq
            prescale := prescaleByte (d6Value freq)
            savedMode := if 2 ≤ n then m else s.block.savedMode } ∧
        (n ≠ 7 → Refuses .pwmClose t .invalidState) ∧
        (s.env.grants (devOf addr) 6 → n = 7))

/-- R175 (with R174): PWM_SET_TICKS: the state test, the channel test before any bus access, four writes in order,
stopping at the first that fails. -/
def Obligations.SetTicksWritesTheTickPair : Prop :=
  (∀ ch n1 n0 o1 o0 : Byte, (be16 n1 n0).toNat = 256 * n1.toNat + n0.toNat ∧
    decode [0x11#8, ch, n1, n0, o1, o0] =
      if n1.toNat < 16 ∧ o1.toNat < 16 then .ok (.pwmSetTicks ch (be16 n1 n0) (be16 o1 o0))
      else .error (.illegalField .pwmSetTicks)) ∧
  ∀ (s : State) (ch : Byte) (on off : BitVec 16),
    (s.block.ctlState ≠ .awake → Refuses (.pwmSetTicks ch on off) s .invalidState) ∧
    (s.block.ctlState = .awake → 15 < ch.toNat → Refuses (.pwmSetTicks ch on off) s .invalidChannel) ∧
    (s.block.ctlState = .awake → ch.toNat ≤ 15 →
      ∃ (n : Nat) (t : State), n ≤ 4 ∧ exec (.pwmSetTicks ch on off) s = .next t ∧
        Answered s t (cutAt (tickEvents s.block.devAddr ch (BitVec.ofNat 12 on.toNat) (BitVec.ofNat 12 off.toNat)) n)
          (if n = 4 then .ok else .error .transferError) s.block ∧
        (s.env.grants s.block.devAddr 4 → n = 4))

/-- R177 (with R176): PWM_SET_PULSE: as PWM_SET_TICKS with ON 0 and OFF the duty ticks of the pulse at the stored
frequency; a pulse outside the range is no error. -/
def Obligations.SetPulseWritesTheDutyTicks : Prop :=
  (∀ ch p3 p2 p1 p0 : Byte, decode [0x12#8, ch, p3, p2, p1, p0] = .ok (.pwmSetPulse ch (be32 p3 p2 p1 p0))) ∧
  (∀ p f : Q, 0 < f → ((dutyTick p f).toNat : Int) =
    min ((if p < 1 / 2 then 1 / 2 else if 5 / 2 < p then 5 / 2 else p) * f * 4096 / 1000 + 1 / 2 : Q).floor 4095) ∧
  ∀ (s : State) (ch : Byte) (pulse : D6),
    (s.block.ctlState ≠ .awake → Refuses (.pwmSetPulse ch pulse) s .invalidState) ∧
    (s.block.ctlState = .awake → 15 < ch.toNat → Refuses (.pwmSetPulse ch pulse) s .invalidChannel) ∧
    (s.block.ctlState = .awake → ch.toNat ≤ 15 →
      ∃ (n : Nat) (t : State), n ≤ 4 ∧ exec (.pwmSetPulse ch pulse) s = .next t ∧
        Answered s t
          (cutAt (tickEvents s.block.devAddr ch 0#12 (dutyTick (d6Value pulse) s.block.freq)) n)
          (if n = 4 then .ok else .error .transferError) s.block ∧
        (s.env.grants s.block.devAddr 4 → n = 4))

/-- R179 (with R178): PWM_STOP_ALL: 64 zero writes, ascending, stopping at the first that fails. -/
def Obligations.StopAllZeroesEveryChannel : Prop :=
  decode [0x13#8] = .ok .pwmStopAll ∧
  ∀ s : State,
    (s.block.ctlState ≠ .awake → Refuses .pwmStopAll s .invalidState) ∧
    (s.block.ctlState = .awake →
      ∃ (n : Nat) (t : State), n ≤ 64 ∧ exec .pwmStopAll s = .next t ∧
        Answered s t (cutAt (stopAllEvents s.block.devAddr) n) (if n = 64 then .ok else .error .transferError)
          s.block ∧
        (s.env.grants s.block.devAddr 64 → n = 64))

/-- R180: PWM_CLOSE: no bus transaction, the Mapper untouched; later PWM_CLOSE, PWM_CONSTRUCT and the Mapper's
axis commands are refused. -/
def Obligations.PwmCloseReleasesTheHandle : Prop :=
  decode [0x14#8] = .ok .pwmClose ∧
  ∀ s : State,
    (s.block.ctlState ≠ .awake → Refuses .pwmClose s .invalidState) ∧
    (s.block.ctlState = .awake →
      ∃ t, exec .pwmClose s = .next t ∧
        Answered s t [.closed] .ok { s.block with busOwner := .none, ctlState := .closed } ∧ t.env = s.env ∧
        Refuses .pwmClose t .invalidState ∧
        (∀ bus addr freq, Refuses (.pwmConstruct bus addr freq) t .invalidState) ∧
        ∀ x, Refuses (.mapSetSteering x) t .invalidState ∧ Refuses (.mapSetThrottle x) t .invalidState ∧
          Refuses .mapStop t .invalidState)

/-- R181: freq, prescale and dev_addr are written by PWM_CONSTRUCT and by nothing else, and only before the
controller was constructed; no step changes them but the one that takes a PWM_CONSTRUCT or a reset. -/
def Obligations.FrequencyIsFixedForLife : Prop :=
  (∀ (i : Instr) (s t : State), exec i s = .next t →
    (i.opcode ≠ .pwmConstruct ∨ s.block.ctlState ≠ .uninitialized) →
    t.block.freq = s.block.freq ∧ t.block.prescale = s.block.prescale ∧ t.block.devAddr = s.block.devAddr) ∧
  ∀ s t : State, step s = .next t →
    (t.block.freq = s.block.freq ∧ t.block.prescale = s.block.prescale ∧ t.block.devAddr = s.block.devAddr) ∨
    s.block.abortPending = false ∧ ∃ rest, s.inputs = .reset :: rest ∨
      ∃ frame bus addr freq, s.inputs = .command frame :: rest ∧ decode frame = .ok (.pwmConstruct bus addr freq) ∧
        s.block.ctlState = .uninitialized

/-- The controller's transitions between commands (10_state.md section 3): which there are, and which commands
make them. -/
def Obligations.ControllerTransitionsAreTheListedOnes : Prop :=
  ∀ (i : Instr) (s t : State), Inv s → exec i s = .next t → t.block.ctlState ≠ s.block.ctlState →
    (s.block.ctlState = .uninitialized ∧ i.opcode = .pwmConstruct ∧
      (t.block.ctlState = .awake ∨ t.block.ctlState = .closed)) ∨
    (s.block.ctlState = .awake ∧ t.block.ctlState = .closed ∧
      (i = .pwmClose ∨ i = .mapShutdown ∨ i.opcode = .mapConstruct))

/-- The ON = 0 invariant and the address map (10_state.md R37 item b, 20_memory.md sections 1 and 5): a PWC or NMM
command reaches only its controller's address and the mapped registers, writes the upper four bits of a high byte
as zero, and writes only 0x00 to an ON register unless it is PWM_SET_TICKS. -/
def Obligations.PwcWritesOnlyMappedRegisters : Prop :=
  ∀ (i : Instr) (s t : State), isRaw i = false → exec i s = .next t →
    ∃ evs, t.trace = s.trace ++ evs ∧ ∀ e ∈ evs,
      (∀ dev reg v a, e = .wr dev reg v a → dev = t.block.devAddr ∧
        (reg = 0x00#8 ∨ reg = 0xFE#8 ∨ (0x06 ≤ reg.toNat ∧ reg.toNat ≤ 0x45)) ∧
        (0x06 ≤ reg.toNat → reg.toNat ≤ 0x45 →
          ((reg.toNat - 6) % 2 = 1 → v.toNat < 16) ∧
          ((reg.toNat - 6) % 4 < 2 → i.opcode ≠ .pwmSetTicks → v = 0x00#8))) ∧
      ∀ dev reg got, e = .rd dev reg got → dev = t.block.devAddr ∧ reg = 0x00#8

/-! ## The Motion Mapper (43_motion_mapper.md) -/

/-- R201: MAP_CONSTRUCT: the tests in their order; then both records stored, steering centred, throttle centred;
a failed write is fatal. -/
def Obligations.MapConstructCentresBothAxes : Prop :=
  (∀ sc e3 e2 e1 e0 h3 h2 h1 h0 tc g3 g2 g1 g0 j3 j2 j1 j0 : Byte,
    decode [0x20#8, sc, e3, e2, e1, e0, h3, h2, h1, h0, tc, g3, g2, g1, g0, j3, j2, j1, j0] =
      .ok (.mapConstruct sc (be32 e3 e2 e1 e0) (be32 h3 h2 h1 h0) tc (be32 g3 g2 g1 g0) (be32 j3 j2 j1 j0))) ∧
  ∀ (s : State) (sCh : Byte) (sCenter sHalf : D6) (tCh : Byte) (tCenter tHalf : D6),
    let i : Instr := .mapConstruct sCh sCenter sHalf tCh tCenter tHalf
    let b := { s.block with
      calSteering := { channel := sCh, center := d6Value sCenter, half := d6Value sHalf }
      calThrottle := { channel := tCh, center := d6Value tCenter, half := d6Value tHalf } }
    let evs := axisEvents b .steering 0 ++ axisEvents b .throttle 0
    let valid := calibrationValid s.params (d6Value sCenter) (d6Value sHalf) = true ∧
      calibrationValid s.params (d6Value tCenter) (d6Value tHalf) = true
    (s.block.mapState ≠ .unconstructed ∨ s.block.ctlState ≠ .awake → Refuses i s .invalidState) ∧
    (s.block.mapState = .unconstructed → s.block.ctlState = .awake → (15 < sCh.toNat ∨ 15 < tCh.toNat) →
      Refuses i s .invalidChannel) ∧
    (s.block.mapState = .unconstructed → s.block.ctlState = .awake → sCh.toNat ≤ 15 → tCh.toNat ≤ 15 → ¬ valid →
      Refuses i s .outOfRangeCalibration) ∧
    (s.block.mapState = .unconstructed → s.block.ctlState = .awake → s.block.busOwner = .pwc →
      sCh.toNat ≤ 15 → tCh.toNat ≤ 15 → valid →
      ∃ (n : Nat) (t : State) (acks : List Bool), n ≤ 8 ∧ acks.length = 64 ∧ exec i s = .next t ∧
        Answered s t (cutAt evs n ++ if n = 8 then [] else cleanupEvents s.block.devAddr acks)
          (if n = 8 then .ok else .error .transferError)
          (if n = 8 then { b with mapState := .active }
            else { b with busOwner := .none, ctlState := .closed }) ∧
        (s.env.grants s.block.devAddr 8 → n = 8))

/-- R203, R204 (with R202): MAP_SET_STEERING and MAP_SET_THROTTLE: four writes of the mapped pulse on the axis's
channel; an error is not fatal. The channel's range is the record's own (R27). -/
def Obligations.SetAxisWritesTheMappedPulse : Prop :=
  (∀ x3 x2 x1 x0 : Byte, decode [0x21#8, x3, x2, x1, x0] = .ok (.mapSetSteering (be32 x3 x2 x1 x0)) ∧
    decode [0x22#8, x3, x2, x1, x0] = .ok (.mapSetThrottle (be32 x3 x2 x1 x0))) ∧
  (∀ (k : Cal) (x : Q), mapPulse k x = k.center + (if x < -1 then -1 else if 1 < x then 1 else x) * k.half) ∧
  ∀ (s : State) (a : Axis) (x : D6),
    let i : Instr := match a with
      | .steering => .mapSetSteering x
      | .throttle => .mapSetThrottle x
    (s.block.mapState ≠ .active ∨ s.block.ctlState ≠ .awake → Refuses i s .invalidState) ∧
    (s.block.mapState = .active → s.block.ctlState = .awake → (s.block.cal a).channel.toNat ≤ 15 →
      ∃ (n : Nat) (t : State), n ≤ 4 ∧ exec i s = .next t ∧
        Answered s t (cutAt (axisEvents s.block a (d6Value x)) n) (if n = 4 then .ok else .error .transferError)
          s.block ∧
        (s.env.grants s.block.devAddr 4 → n = 4))

/-- R205: MAP_RECAL_CENTER: no bus event; the whole record replaced with a new centre, or nothing. It needs only an
active Mapper (R200), also while the host owns the handle (log entry 25). -/
def Obligations.RecalibrationReplacesTheCentreOnly : Prop :=
  (∀ axis e3 e2 e1 e0 : Byte, decode [0x23#8, axis, e3, e2, e1, e0] =
    if axis.toNat ≤ 1 then .ok (.mapRecalCenter axis (be32 e3 e2 e1 e0))
    else .error (.illegalField .mapRecalCenter)) ∧
  ∀ (s : State) (a : Axis) (center : D6),
    let i : Instr := .mapRecalCenter (match a with
      | .steering => 0#8
      | .throttle => 1#8) center
    let valid := calibrationValid s.params (d6Value center) (s.block.cal a).half = true
    (s.block.mapState ≠ .active → Refuses i s .invalidState) ∧
    (s.block.mapState = .active → ¬ valid → Refuses i s .outOfRangeCalibration) ∧
    (s.block.mapState = .active → valid →
      ∃ t, exec i s = .next t ∧ t.wire = s.wire ∧ t.env = s.env ∧
        Answered s t [] .ok (match a with
          | .steering => { s.block with calSteering := { s.block.calSteering with center := d6Value center } }
          | .throttle => { s.block with calThrottle := { s.block.calThrottle with center := d6Value center } }))

/-- R207 (with R206): MAP_STOP: the four throttle writes, then the four steering writes, each from its centre. -/
def Obligations.MapStopNeutralizesThrottleFirst : Prop :=
  decode [0x24#8] = .ok .mapStop ∧
  ∀ s : State,
    (s.block.mapState ≠ .active ∨ s.block.ctlState ≠ .awake → Refuses .mapStop s .invalidState) ∧
    (s.block.mapState = .active → s.block.ctlState = .awake → (∀ a, (s.block.cal a).channel.toNat ≤ 15) →
      ∃ (n : Nat) (t : State), n ≤ 8 ∧ exec .mapStop s = .next t ∧
        Answered s t (cutAt (axisEvents s.block .throttle 0 ++ axisEvents s.block .steering 0) n)
          (if n = 8 then .ok else .error .transferError) s.block ∧
        (s.env.grants s.block.devAddr 8 → n = 8))

/-- R207's idempotence, over the accepted bytes (log entry 13): after a second MAP_STOP that answers OK the target
has accepted the same bytes as after the first. -/
def Obligations.SecondStopLeavesTheSameBytes : Prop :=
  ∀ (s t u : State), (∀ a, (s.block.cal a).channel.toNat ≤ 15) → exec .mapStop s = .next t →
    exec .mapStop t = .next u → t.block.lastStatus = .ok → u.block.lastStatus = .ok →
    u.trace.drop t.trace.length = t.trace.drop s.trace.length ∧ ∀ a, u.mem.read a = t.mem.read a

/-- R208's pseudocode: MAP_SHUTDOWN in its four cases; the second and later ones do nothing. -/
def Obligations.ShutdownStopsAndCloses : Prop :=
  decode [0x25#8] = .ok .mapShutdown ∧
  ∀ s : State,
    (s.block.mapState = .shutDown → ∃ t, exec .mapShutdown s = .next t ∧ Answered s t [] .ok s.block ∧
      t.env = s.env) ∧
    (s.block.mapState = .unconstructed → Refuses .mapShutdown s .invalidState) ∧
    (s.block.mapState = .active → s.block.ctlState ≠ .awake →
      ∃ t, exec .mapShutdown s = .next t ∧
        Answered s t [] (.error .invalidState) { s.block with mapState := .shutDown } ∧ t.env = s.env) ∧
    (s.block.mapState = .active → s.block.ctlState = .awake → s.block.busOwner = .pwc →
      (∀ a, (s.block.cal a).channel.toNat ≤ 15) →
      ∃ (n : Nat) (acks : List Bool) (t : State), n ≤ 73 ∧ CutPoint (shutdownEvents s.block) n ∧
        acks.length = 64 ∧ exec .mapShutdown s = .next t ∧
        Answered s t
          (cutAt (shutdownEvents s.block) n ++
            if n = 73 then [.closed] else cleanupEvents s.block.devAddr acks)
          (if n = 73 then .ok else .error .transferError)
          { s.block with mapState := .shutDown, busOwner := .none, ctlState := .closed } ∧
        (s.env.grants s.block.devAddr 72 → n = 73))

/-- "no hidden state, no history dependence" (43_motion_mapper.md section 3, item e): with the same environment the
events of a set command depend only on the axis's record, the frequency, the address and the operand. -/
def Obligations.SetAxisDependsOnNothingElse : Prop :=
  ∀ (s₁ s₂ t₁ t₂ : State) (x : D6) (a : Axis),
    let i : Instr := match a with
      | .steering => .mapSetSteering x
      | .throttle => .mapSetThrottle x
    mapperReady s₁ = true → mapperReady s₂ = true → s₁.block.cal a = s₂.block.cal a →
    s₁.block.freq = s₂.block.freq → s₁.block.devAddr = s₂.block.devAddr → s₁.env = s₂.env →
    exec i s₁ = .next t₁ → exec i s₂ = .next t₂ →
    (∃ evs, t₁.trace = s₁.trace ++ evs ∧ t₂.trace = s₂.trace ++ evs) ∧
      t₁.block.lastStatus = t₂.block.lastStatus ∧ t₁.env = t₂.env

/-! ## Responses, errors, abort, reset -/

/-- R99: every command is answered by one response, after everything else it does: the status byte, then a data
byte exactly with a BUS_READ that answers OK; last_status is the status answered. -/
def Obligations.EveryCommandRespondsOnceAndLast : Prop :=
  ∀ (i : Instr) (s : State), ∃ (t : State) (evs : List Event) (st : Status) (data : Option Byte),
    exec i s = .next t ∧ t.trace = s.trace ++ evs ++ [.resp st data] ∧
    (∀ e ∈ evs, e.isResponse = false) ∧ t.block.lastStatus = st ∧ responseBytes st data = st.code :: data.toList ∧
    (data.isSome = true ↔ i.opcode = .busRead ∧ st = .ok)

/-- The trace is a total order that only grows (20_memory.md section 6): a step appends its events, puts one frame
on the wires for each transaction, records as accepted exactly the acknowledged writes (log entry 13), and leaves
the parameters alone. -/
def Obligations.StepOnlyAppendsEvents : Prop :=
  ∀ s t : State, step s = .next t →
    ∃ evs, t.trace = s.trace ++ evs ∧ t.mem = replay s.mem t.block.busIndex evs ∧
      t.wire.length = s.wire.length + evs.countP Event.isTransaction ∧ t.params = s.params

/-- The frame over the accepted bytes (log entry 13): a command leaves every byte outside the locations it stores
to, computed as its meaning computes them, as it was. -/
def Obligations.CommandsLeaveOtherBytesAlone : Prop :=
  ∀ (i : Instr) (s t : State) (a : Nat), exec i s = .next t → a ∉ storedLocations i s →
    t.mem.read a = s.mem.read a

/-- A PWM_SET_TICKS that answers OK leaves the tick pair accepted in the channel's four registers, low byte first
(20_memory.md section 3; log entry 13). -/
def Obligations.CompletedTicksAreAccepted : Prop :=
  ∀ (s t : State) (ch : Byte) (on off : BitVec 16), s.block.ctlState = .awake → ch.toNat ≤ 15 →
    exec (.pwmSetTicks ch on off) s = .next t → t.block.lastStatus = .ok →
    let reg := fun k => location s.block.busIndex s.block.devAddr (BitVec.ofNat 8 (0x06 + 4 * ch.toNat + k))
    t.mem.read (reg 0) = some (BitVec.ofNat 8 on.toNat) ∧
    t.mem.read (reg 1) = some (BitVec.ofNat 8 (on.toNat % 4096 / 256)) ∧
    t.mem.read (reg 2) = some (BitVec.ofNat 8 off.toNat) ∧
    t.mem.read (reg 3) = some (BitVec.ofNat 8 (off.toNat % 4096 / 256))

/-- "`stopAllChannels()` must result in all 16 channels having ON=0 and OFF=0, regardless of prior state"
(42_pwm_controller.md section 3; over the accepted bytes, log entry 13). -/
def Obligations.CompletedStopAllLeavesZeroes : Prop :=
  ∀ (s t : State), s.block.ctlState = .awake → exec .pwmStopAll s = .next t → t.block.lastStatus = .ok →
    ∀ reg : Byte, 0x06 ≤ reg.toNat → reg.toNat ≤ 0x45 →
      t.mem.read (location s.block.busIndex s.block.devAddr reg) = some 0x00#8

/-- R241: the abort service in its five cases, whatever inputs wait. -/
def Obligations.AbortServiceFollowsItsRule : Prop :=
  ∀ s : State, s.block.abortPending = true →
    let b := { s.block with abortPending := false, abortTaken := true }
    (s.block.abortTaken = true → step s = .next { s with block := { s.block with abortPending := false } }) ∧
    (s.block.abortTaken = false → s.block.mapState ≠ .active → s.block.busOwner ≠ .pwc →
      ∃ t, step s = .next t ∧ Produced s t [.abortDone .ok] { b with lastStatus := .ok }) ∧
    (s.block.abortTaken = false → s.block.mapState ≠ .active → s.block.busOwner = .pwc →
      ∃ (t : State) (acks : List Bool), acks.length = 64 ∧ step s = .next t ∧
        Produced s t (cleanupEvents s.block.devAddr acks ++ [.abortDone .ok])
          { b with busOwner := .none, ctlState := .closed, lastStatus := .ok }) ∧
    (s.block.abortTaken = false → s.block.mapState = .active → s.block.ctlState ≠ .awake →
      ∃ t, step s = .next t ∧ Produced s t [.abortDone (.error .invalidState)]
        { b with mapState := .shutDown, lastStatus := .error .invalidState }) ∧
    (s.block.abortTaken = false → s.block.mapState = .active → s.block.ctlState = .awake →
      s.block.busOwner = .pwc → (∀ a, (s.block.cal a).channel.toNat ≤ 15) →
      ∃ (n : Nat) (acks : List Bool) (t : State), n ≤ 73 ∧ CutPoint (shutdownEvents s.block) n ∧
        acks.length = 64 ∧ step s = .next t ∧
        Produced s t
          (cutAt (shutdownEvents s.block) n ++
            (if n = 73 then [.closed] else cleanupEvents s.block.devAddr acks) ++
            [.abortDone (if n = 73 then .ok else .error .transferError)])
          { b with
            mapState := .shutDown
            busOwner := .none
            ctlState := .closed
            lastStatus := if n = 73 then .ok else .error .transferError } ∧
        (s.env.grants s.block.devAddr 72 → n = 73))

/-- The abort latch (60_exceptions.md section 3). Raising abort sets abort_pending and nothing else; raising it while
it is pending has no effect. No command changes the latch. A step from a pending state is the abort service, which
clears it (a pending abort is served before a waiting reset input: log entry 10); a reset input leaves it clear; an
abort input alone sets it. Only a reset clears abort_taken. -/
def Obligations.AbortLatchIsClearedOnlyByServiceOrReset : Prop :=
  (∀ (s : State) (rest : List Input), s.block.abortPending = false → s.inputs = .abort :: rest →
    step s = .next { s with block := { s.block with abortPending := true }, inputs := rest }) ∧
  (∀ s : State, s.block.abortPending = true → raiseAbort s = s) ∧
  (∀ (i : Instr) (s t : State), exec i s = .next t →
    t.block.abortPending = s.block.abortPending ∧ t.block.abortTaken = s.block.abortTaken) ∧
  (∀ s t : State, step s = .next t → s.block.abortPending = true →
    t = abortService s ∧ t.block.abortPending = false ∧ t.block.abortTaken = true ∧ t.inputs = s.inputs) ∧
  (∀ s t : State, step s = .next t → s.block.abortPending = false →
    (t.block.abortPending = true ↔ ∃ rest, s.inputs = .abort :: rest)) ∧
  ∀ s t : State, step s = .next t → s.block.abortTaken = true →
    t.block.abortTaken = true ∨ ∃ rest, s.inputs = .reset :: rest

/-- "exactly once" (60_exceptions.md section 3): the shutdown's neutral wait is emitted only by a step that takes
an active Mapper to ShutDown, and ShutDown is left only by reset. -/
def Obligations.ShutdownBodyRunsAtMostOnce : Prop :=
  ∀ s t : State, step s = .next t →
    (∀ evs, t.trace = s.trace ++ evs → .delay .settleNeutral ∈ evs →
      s.block.mapState = .active ∧ t.block.mapState = .shutDown) ∧
    (s.block.mapState = .shutDown → t.block.mapState = .shutDown ∨
      s.block.abortPending = false ∧ ∃ rest, s.inputs = .reset :: rest)

/-- R270: reset of the idle block; it is the only way out of Closed and ShutDown. The state is the one of R38; the
fields R38 leaves unspecified are not claimed. -/
def Obligations.ResetIsTheOnlyWayBack : Prop :=
  (∀ (s : State) (rest : List Input), s.block.abortPending = false → s.inputs = .reset :: rest →
    ∃ t, step s = .next t ∧ t.block.busOwner = .none ∧ t.block.ctlState = .uninitialized ∧
      t.block.mapState = .unconstructed ∧ t.block.lastStatus = .ok ∧ t.block.abortPending = false ∧
      t.block.abortTaken = false ∧ t.trace = s.trace ++ [.reset] ∧ t.wire = s.wire ∧ t.mem = s.mem ∧
      t.env = s.env ∧ t.params = s.params ∧ t.inputs = rest) ∧
  ∀ s t : State, step s = .next t →
    (s.block.ctlState = .closed → t.block.ctlState ≠ .closed → ∃ rest, s.inputs = .reset :: rest) ∧
    (s.block.mapState = .shutDown → t.block.mapState ≠ .shutDown → ∃ rest, s.inputs = .reset :: rest)

/-- 10_state.md section 8: the values the spec gives for reset. The reset values it leaves open are not claimed. -/
def Obligations.ResetHoldsTheStatedValues : Prop :=
  State.reset.block.busOwner = .none ∧ State.reset.block.ctlState = .uninitialized ∧
  State.reset.block.mapState = .unconstructed ∧ State.reset.block.lastStatus = .ok ∧
  State.reset.block.abortPending = false ∧ State.reset.block.abortTaken = false ∧
  State.reset.trace = [] ∧ State.reset.wire = []

/-- With nothing sent and no abort pending the block waits (70_reset_and_hazards.md section 1). -/
def Obligations.IdleBlockWaits : Prop :=
  ∀ s : State, s.block.abortPending = false → s.inputs = [] → step s = .next s

/-- Every command has a next state in every state; a step never refuses, and faults only for the two inputs the
spec leaves without behaviour (93_implementation_defined.md U6, U7; log entries 11, 12). -/
def Obligations.FaultsOnlyOutsideTheSpec : Prop :=
  (∀ (i : Instr) (s : State), ∃ t, exec i s = .next t) ∧
  (∀ (s : State) (r : Refusal), step s ≠ .refused r) ∧
  ∀ (s : State) (f : Fault), step s = .fault f ↔
    s.block.abortPending = false ∧
      ((f = .resetInProgress ∧ ∃ frame rest, s.inputs = .resetDuring frame :: rest) ∨
        (f = .secondMaster ∧ s.block.busOwner ≠ .none ∧ ∃ rest, s.inputs = .foreignMaster :: rest))

/-! ## The invariant -/

/-- The machine after reset satisfies the invariant. -/
def Obligations.ResetSatisfiesTheInvariant : Prop := Inv State.reset

/-- Every step keeps the invariant between commands: Sleeping is never observable, the controller holds the handle
exactly when it is awake, its prescale is the valid prescale of its frequency, a constructed Mapper's records are
valid, a shut-down Mapper's controller is closed, and the byte records stay in canonical form. -/
def Obligations.StepKeepsTheInvariant : Prop :=
  ∀ s t : State, Inv s → step s = .next t → Inv t
end

