-- ==== Sys2Proof/Laws/Encoding.lean ====
section
/-! SUPPORT. What the parts of the decoder can do: the big-endian fields split and join exactly, and the operand
fields are read from a frame of the right length only. -/

namespace Sys2Proof

theorem be32_of_bytes (x : BitVec 32) :
    be32 (x.extractLsb' 24 8) (x.extractLsb' 16 8) (x.extractLsb' 8 8) (x.extractLsb' 0 8) = x := by
  unfold be32
  ext i hi
  simp
  grind

theorem be16_of_bytes (x : BitVec 16) : be16 (x.extractLsb' 8 8) (x.extractLsb' 0 8) = x := by
  unfold be16
  ext i hi
  simp
  grind

theorem bytes32_of_be (b3 b2 b1 b0 : Byte) : bytes32 (be32 b3 b2 b1 b0) = [b3, b2, b1, b0] := by
  unfold be32 bytes32
  simp only [List.cons.injEq, and_true]
  refine ⟨?_, ?_, ?_, ?_⟩ <;>
    · ext i hi
      simp [BitVec.getElem_extractLsb']
      grind

theorem bytes16_of_be (b1 b0 : Byte) : bytes16 (be16 b1 b0) = [b1, b0] := by
  unfold be16 bytes16
  simp only [List.cons.injEq, and_true]
  refine ⟨?_, ?_⟩ <;>
    · ext i hi
      simp [BitVec.getElem_extractLsb']
      grind

/-- A byte that stands for an opcode is its code. -/
theorem code_of_opcodeOf {b : Byte} {o : Opcode} (h : opcodeOf b = some o) : b = o.code := by
  have := List.find?_some h
  simpa using (beq_iff_eq.mp this).symm

/-- The operand bytes that give a command are those its encoding writes, and no others. -/
theorem operandsOf_inv {o : Opcode} {l : List Byte} {i : Instr} (h : operandsOf o l = some i) :
    i.opcode = o ∧ encode i = o.code :: l ∧ l.length + 1 = o.frameLength := by
  cases o <;> simp only [operandsOf] at h <;> split at h <;> simp only [Option.some.injEq, reduceCtorEq] at h <;>
    subst h <;>
    simp [encode, Instr.opcode, bytes32_of_be, bytes16_of_be, Opcode.frameLength, Opcode.format, Format.length]

end Sys2Proof
end

