-- ==== Sys2Proof/Laws/State.lean ====
section
/-! SUPPORT. One lemma per field of State per named update, true by rfl. -/

namespace Sys2Proof.Machine

variable (s : State)

/-! `emit` -/

@[simp] theorem emit_block (e : Event) : (s.emit e).block = s.block := rfl
@[simp] theorem emit_params (e : Event) : (s.emit e).params = s.params := rfl
@[simp] theorem emit_mem (e : Event) : (s.emit e).mem = s.mem := rfl
@[simp] theorem emit_trace (e : Event) : (s.emit e).trace = s.trace ++ [e] := rfl
@[simp] theorem emit_wire (e : Event) : (s.emit e).wire = s.wire := rfl
@[simp] theorem emit_env (e : Event) : (s.emit e).env = s.env := rfl
@[simp] theorem emit_inputs (e : Event) : (s.emit e).inputs = s.inputs := rfl

/-! `setLastStatus` -/

@[simp] theorem setLastStatus_block (st : Status) :
    (s.setLastStatus st).block = { s.block with lastStatus := st } := rfl
@[simp] theorem setLastStatus_params (st : Status) : (s.setLastStatus st).params = s.params := rfl
@[simp] theorem setLastStatus_mem (st : Status) : (s.setLastStatus st).mem = s.mem := rfl
@[simp] theorem setLastStatus_trace (st : Status) : (s.setLastStatus st).trace = s.trace := rfl
@[simp] theorem setLastStatus_wire (st : Status) : (s.setLastStatus st).wire = s.wire := rfl
@[simp] theorem setLastStatus_env (st : Status) : (s.setLastStatus st).env = s.env := rfl
@[simp] theorem setLastStatus_inputs (st : Status) : (s.setLastStatus st).inputs = s.inputs := rfl

/-! `respond` -/

@[simp] theorem respond_block (st : Status) (d : Option Byte) :
    (s.respond st d).block = { s.block with lastStatus := st } := rfl
@[simp] theorem respond_params (st : Status) (d : Option Byte) : (s.respond st d).params = s.params := rfl
@[simp] theorem respond_mem (st : Status) (d : Option Byte) : (s.respond st d).mem = s.mem := rfl
@[simp] theorem respond_trace (st : Status) (d : Option Byte) : (s.respond st d).trace = s.trace ++ [.resp st d] := rfl
@[simp] theorem respond_wire (st : Status) (d : Option Byte) : (s.respond st d).wire = s.wire := rfl
@[simp] theorem respond_env (st : Status) (d : Option Byte) : (s.respond st d).env = s.env := rfl
@[simp] theorem respond_inputs (st : Status) (d : Option Byte) : (s.respond st d).inputs = s.inputs := rfl

/-! `abortServed` -/

@[simp] theorem abortServed_block (st : Status) : (s.abortServed st).block = { s.block with lastStatus := st } := rfl
@[simp] theorem abortServed_params (st : Status) : (s.abortServed st).params = s.params := rfl
@[simp] theorem abortServed_mem (st : Status) : (s.abortServed st).mem = s.mem := rfl
@[simp] theorem abortServed_trace (st : Status) : (s.abortServed st).trace = s.trace ++ [.abortDone st] := rfl
@[simp] theorem abortServed_wire (st : Status) : (s.abortServed st).wire = s.wire := rfl
@[simp] theorem abortServed_env (st : Status) : (s.abortServed st).env = s.env := rfl
@[simp] theorem abortServed_inputs (st : Status) : (s.abortServed st).inputs = s.inputs := rfl

/-! `sendFrame` -/

@[simp] theorem sendFrame_block (f : List WireSym) : (s.sendFrame f).block = s.block := rfl
@[simp] theorem sendFrame_params (f : List WireSym) : (s.sendFrame f).params = s.params := rfl
@[simp] theorem sendFrame_mem (f : List WireSym) : (s.sendFrame f).mem = s.mem := rfl
@[simp] theorem sendFrame_trace (f : List WireSym) : (s.sendFrame f).trace = s.trace := rfl
@[simp] theorem sendFrame_wire (f : List WireSym) :
    (s.sendFrame f).wire = s.wire ++ [{ port := s.block.busIndex, symbols := f }] := rfl
@[simp] theorem sendFrame_env (f : List WireSym) : (s.sendFrame f).env = s.env := rfl
@[simp] theorem sendFrame_inputs (f : List WireSym) : (s.sendFrame f).inputs = s.inputs := rfl

/-! `acceptWrite` -/

@[simp] theorem acceptWrite_block (d : DevAddr) (r v : Byte) : (s.acceptWrite d r v).block = s.block := rfl
@[simp] theorem acceptWrite_params (d : DevAddr) (r v : Byte) : (s.acceptWrite d r v).params = s.params := rfl
@[simp] theorem acceptWrite_mem (d : DevAddr) (r v : Byte) :
    (s.acceptWrite d r v).mem = s.mem.write (location s.block.busIndex d r) v := rfl
@[simp] theorem acceptWrite_trace (d : DevAddr) (r v : Byte) : (s.acceptWrite d r v).trace = s.trace := rfl
@[simp] theorem acceptWrite_wire (d : DevAddr) (r v : Byte) : (s.acceptWrite d r v).wire = s.wire := rfl
@[simp] theorem acceptWrite_env (d : DevAddr) (r v : Byte) : (s.acceptWrite d r v).env = s.env.accept d r v := rfl
@[simp] theorem acceptWrite_inputs (d : DevAddr) (r v : Byte) : (s.acceptWrite d r v).inputs = s.inputs := rfl

/-! `setCtl` -/

@[simp] theorem setCtl_block (c : CtlState) : (s.setCtl c).block = { s.block with ctlState := c } := rfl
@[simp] theorem setCtl_params (c : CtlState) : (s.setCtl c).params = s.params := rfl
@[simp] theorem setCtl_mem (c : CtlState) : (s.setCtl c).mem = s.mem := rfl
@[simp] theorem setCtl_trace (c : CtlState) : (s.setCtl c).trace = s.trace := rfl
@[simp] theorem setCtl_wire (c : CtlState) : (s.setCtl c).wire = s.wire := rfl
@[simp] theorem setCtl_env (c : CtlState) : (s.setCtl c).env = s.env := rfl
@[simp] theorem setCtl_inputs (c : CtlState) : (s.setCtl c).inputs = s.inputs := rfl

/-! `setMap` -/

@[simp] theorem setMap_block (m : MapState) : (s.setMap m).block = { s.block with mapState := m } := rfl
@[simp] theorem setMap_params (m : MapState) : (s.setMap m).params = s.params := rfl
@[simp] theorem setMap_mem (m : MapState) : (s.setMap m).mem = s.mem := rfl
@[simp] theorem setMap_trace (m : MapState) : (s.setMap m).trace = s.trace := rfl
@[simp] theorem setMap_wire (m : MapState) : (s.setMap m).wire = s.wire := rfl
@[simp] theorem setMap_env (m : MapState) : (s.setMap m).env = s.env := rfl
@[simp] theorem setMap_inputs (m : MapState) : (s.setMap m).inputs = s.inputs := rfl

/-! `setSavedMode` -/

@[simp] theorem setSavedMode_block (m : Byte) : (s.setSavedMode m).block = { s.block with savedMode := m } := rfl
@[simp] theorem setSavedMode_params (m : Byte) : (s.setSavedMode m).params = s.params := rfl
@[simp] theorem setSavedMode_mem (m : Byte) : (s.setSavedMode m).mem = s.mem := rfl
@[simp] theorem setSavedMode_trace (m : Byte) : (s.setSavedMode m).trace = s.trace := rfl
@[simp] theorem setSavedMode_wire (m : Byte) : (s.setSavedMode m).wire = s.wire := rfl
@[simp] theorem setSavedMode_env (m : Byte) : (s.setSavedMode m).env = s.env := rfl
@[simp] theorem setSavedMode_inputs (m : Byte) : (s.setSavedMode m).inputs = s.inputs := rfl

/-! `setFreq` -/

@[simp] theorem setFreq_block (f : Q) :
    (s.setFreq f).block = { s.block with freq := f, prescale := prescaleByte f } := rfl
@[simp] theorem setFreq_params (f : Q) : (s.setFreq f).params = s.params := rfl
@[simp] theorem setFreq_mem (f : Q) : (s.setFreq f).mem = s.mem := rfl
@[simp] theorem setFreq_trace (f : Q) : (s.setFreq f).trace = s.trace := rfl
@[simp] theorem setFreq_wire (f : Q) : (s.setFreq f).wire = s.wire := rfl
@[simp] theorem setFreq_env (f : Q) : (s.setFreq f).env = s.env := rfl
@[simp] theorem setFreq_inputs (f : Q) : (s.setFreq f).inputs = s.inputs := rfl

/-! `setDevAddr` -/

@[simp] theorem setDevAddr_block (d : DevAddr) : (s.setDevAddr d).block = { s.block with devAddr := d } := rfl
@[simp] theorem setDevAddr_params (d : DevAddr) : (s.setDevAddr d).params = s.params := rfl
@[simp] theorem setDevAddr_mem (d : DevAddr) : (s.setDevAddr d).mem = s.mem := rfl
@[simp] theorem setDevAddr_trace (d : DevAddr) : (s.setDevAddr d).trace = s.trace := rfl
@[simp] theorem setDevAddr_wire (d : DevAddr) : (s.setDevAddr d).wire = s.wire := rfl
@[simp] theorem setDevAddr_env (d : DevAddr) : (s.setDevAddr d).env = s.env := rfl
@[simp] theorem setDevAddr_inputs (d : DevAddr) : (s.setDevAddr d).inputs = s.inputs := rfl

/-! `setCal` -/

@[simp] theorem setCal_block (a : Axis) (k : Cal) : (s.setCal a k).block = s.block.setCal a k := rfl
@[simp] theorem setCal_params (a : Axis) (k : Cal) : (s.setCal a k).params = s.params := rfl
@[simp] theorem setCal_mem (a : Axis) (k : Cal) : (s.setCal a k).mem = s.mem := rfl
@[simp] theorem setCal_trace (a : Axis) (k : Cal) : (s.setCal a k).trace = s.trace := rfl
@[simp] theorem setCal_wire (a : Axis) (k : Cal) : (s.setCal a k).wire = s.wire := rfl
@[simp] theorem setCal_env (a : Axis) (k : Cal) : (s.setCal a k).env = s.env := rfl
@[simp] theorem setCal_inputs (a : Axis) (k : Cal) : (s.setCal a k).inputs = s.inputs := rfl

/-! `busClose` -/

@[simp] theorem busClose_block : (busClose s).block = { s.block with busOwner := .none } := rfl
@[simp] theorem busClose_params : (busClose s).params = s.params := rfl
@[simp] theorem busClose_mem : (busClose s).mem = s.mem := rfl
@[simp] theorem busClose_trace : (busClose s).trace = s.trace ++ [.closed] := rfl
@[simp] theorem busClose_wire : (busClose s).wire = s.wire := rfl
@[simp] theorem busClose_env : (busClose s).env = s.env := rfl
@[simp] theorem busClose_inputs : (busClose s).inputs = s.inputs := rfl

/-! `wait` -/

@[simp] theorem wait_block (p : DelayName) : (wait p s).block = s.block := rfl
@[simp] theorem wait_params (p : DelayName) : (wait p s).params = s.params := rfl
@[simp] theorem wait_mem (p : DelayName) : (wait p s).mem = s.mem := rfl
@[simp] theorem wait_trace (p : DelayName) : (wait p s).trace = s.trace ++ [.delay p] := rfl
@[simp] theorem wait_wire (p : DelayName) : (wait p s).wire = s.wire := rfl
@[simp] theorem wait_env (p : DelayName) : (wait p s).env = s.env := rfl
@[simp] theorem wait_inputs (p : DelayName) : (wait p s).inputs = s.inputs := rfl

/-! `failWith` -/

@[simp] theorem failWith_block (e : Error) : (failWith e s).block = { s.block with lastStatus := .error e } := rfl
@[simp] theorem failWith_params (e : Error) : (failWith e s).params = s.params := rfl
@[simp] theorem failWith_mem (e : Error) : (failWith e s).mem = s.mem := rfl
@[simp] theorem failWith_trace (e : Error) : (failWith e s).trace = s.trace ++ [.resp (.error e) none] := rfl
@[simp] theorem failWith_wire (e : Error) : (failWith e s).wire = s.wire := rfl
@[simp] theorem failWith_env (e : Error) : (failWith e s).env = s.env := rfl
@[simp] theorem failWith_inputs (e : Error) : (failWith e s).inputs = s.inputs := rfl

/-! The calibration file (R27) -/

@[simp] theorem setCal_cal (b : Block) (a : Axis) (k : Cal) : (b.setCal a k).cal a = k := by
  cases a <;> rfl

theorem setCal_cal_other (b : Block) {a a' : Axis} (k : Cal) (h : a' ≠ a) : (b.setCal a k).cal a' = b.cal a' := by
  cases a <;> cases a' <;> first | rfl | exact absurd rfl h

end Sys2Proof.Machine
end

