-- ==== Sys2Proof/Laws/Memory.lean ====
section
/-! SUPPORT. The laws of the accepted bytes: read after write, and the canonical form is kept. -/

namespace Sys2Proof.Machine

/-- A read after a write gives the byte written at the written location, and the old value elsewhere. -/
theorem read_write (m : Memory) (a b : Nat) (v : Byte) :
    (m.write a v).read b = if b = a then some v else m.read b := by
  induction m with
  | nil => simp [Memory.write, Memory.read]
  | cons c rest ih =>
    obtain ⟨k, w⟩ := c
    simp only [Memory.write]
    split
    · simp only [Memory.read]
    · split
      · next h => subst h; simp only [Memory.read]; split <;> rfl
      · next h1 h2 =>
        simp only [Memory.read, ih]
        by_cases hb : b = a
        · subst hb; simp [h2]
        · simp [hb]

/-- A write keeps the locations rising. -/
theorem write_risingFrom (m : Memory) (low a : Nat) (v : Byte) (ha : low ≤ a) (hl : a < locations)
    (h : m.risingFrom low = true) : (m.write a v).risingFrom low = true := by
  induction m generalizing low with
  | nil => simp [Memory.write, Memory.risingFrom, ha, hl]
  | cons c rest ih =>
    obtain ⟨k, w⟩ := c
    simp only [Memory.risingFrom, Bool.and_eq_true, decide_eq_true_eq] at h
    obtain ⟨⟨hk, hkl⟩, hr⟩ := h
    simp only [Memory.write]
    split
    · next hlt => simp [Memory.risingFrom, ha, hl, hkl, hr, Nat.succ_le_of_lt hlt]
    · split
      · next heq => subst heq; simp [Memory.risingFrom, ha, hl, hr]
      · next h1 h2 =>
        simp only [Memory.risingFrom, Bool.and_eq_true, decide_eq_true_eq]
        exact ⟨⟨hk, hkl⟩, ih (k + 1) (by omega) hr⟩

/-- Every location of R60 lies inside the space. -/
theorem location_lt (bus : Byte) (dev : DevAddr) (reg : Byte) : location bus dev reg < locations := by
  have hb := bus.isLt; have hd := dev.isLt; have hr := reg.isLt
  simp only [location, flatAddr, locations]
  omega

/-- R60, R61: distinct coordinates are distinct locations. -/
theorem location_injective {bus bus' : Byte} {dev dev' : DevAddr} {reg reg' : Byte}
    (h : location bus dev reg = location bus' dev' reg') : bus = bus' ∧ dev = dev' ∧ reg = reg' := by
  have hb := bus.isLt; have hd := dev.isLt; have hr := reg.isLt
  have hb' := bus'.isLt; have hd' := dev'.isLt; have hr' := reg'.isLt
  simp only [location, flatAddr] at h
  refine ⟨BitVec.eq_of_toNat_eq ?_, BitVec.eq_of_toNat_eq ?_, BitVec.eq_of_toNat_eq ?_⟩ <;> omega

/-- Recording a register write keeps the canonical form. -/
theorem write_wf (m : Memory) (bus : Byte) (dev : DevAddr) (reg v : Byte) (h : m.wf = true) :
    (m.write (location bus dev reg) v).wf = true :=
  write_risingFrom m 0 _ v (Nat.zero_le _) (location_lt bus dev reg) h

/-- So does recording all the acknowledged writes of some events. -/
theorem replay_wf (m : Memory) (bus : Byte) (evs : List Event) (h : m.wf = true) :
    (replay m bus evs).wf = true := by
  induction evs generalizing m with
  | nil => exact h
  | cons e rest ih =>
    cases e with
    | wr dev reg v a =>
      cases a with
      | ack => exact ih _ (write_wf m bus dev reg v h)
      | nack => exact ih _ h
    | _ => exact ih _ h

/-- The accepted bytes after one run of events and then another. -/
theorem replay_append (m : Memory) (bus : Byte) (e₁ e₂ : List Event) :
    replay m bus (e₁ ++ e₂) = replay (replay m bus e₁) bus e₂ := by
  induction e₁ generalizing m with
  | nil => rfl
  | cons e rest ih =>
    cases e with
    | wr dev reg v a =>
      cases a with
      | ack => simpa only [List.cons_append, replay] using ih _
      | nack => simpa only [List.cons_append, replay] using ih _
    | _ => simpa only [List.cons_append, replay] using ih _

/-- A location that no acknowledged write among the events names reads as before. -/
theorem replay_read_other (m : Memory) (bus : Byte) (evs : List Event) (a : Nat)
    (h : ∀ dev reg v, .wr dev reg v .ack ∈ evs → a ≠ location bus dev reg) :
    (replay m bus evs).read a = m.read a := by
  induction evs generalizing m with
  | nil => rfl
  | cons e rest ih =>
    have hr := fun m' => ih m' fun dev reg v hm => h dev reg v (List.mem_cons_of_mem _ hm)
    cases e with
    | wr dev reg v ak =>
      cases ak with
      | ack =>
        have := h dev reg v List.mem_cons_self
        simp only [replay, hr, read_write, if_neg this]
      | nack => exact hr m
    | _ => exact hr m

/-- The reference target's registers stay in canonical form (R81). -/
theorem accept_wf (e : Env) (dev : DevAddr) (reg v : Byte) (h : e.wf = true) : (e.accept dev reg v).wf = true := by
  unfold Env.accept
  split
  · exact h
  · next d0 fill regs ht =>
    split
    · have hreg := reg.isLt
      have : regs.risingFrom 0 = true := by simpa only [Env.wf, ht, Memory.wf] using h
      simpa only [Env.wf, Memory.wf] using
        write_risingFrom regs 0 reg.toNat v (Nat.zero_le _) (by simp only [locations]; omega) this
    · exact h

end Sys2Proof.Machine
end

