-- ==== Sys2Proof/Laws/Ops.lean ====
section
/-! SUPPORT. What each shared operation can do, said once: the environment's draws, the two transactions, opening
the bus, sequences of micro-steps, the cleanup. Later proofs cite these and never unfold the operations. -/

namespace Sys2Proof.Machine

/-! ## Draws -/

/-- A granted transaction is acknowledged, and the grant for the later ones stays. -/
theorem nextReply_grants {e : Env} {dev : DevAddr} {n : Nat} (reg : Byte) (h : e.grants dev (n + 1)) :
    (e.nextReply dev reg).1.ok = true ∧ (e.nextReply dev reg).2.grants dev n := by
  obtain ⟨hall, hlen⟩ := h
  unfold Env.nextReply
  split
  · next r rest hr =>
    rw [hr] at hall hlen
    refine ⟨hall r (by simp), fun x hx => hall x (by simp [hx]), ?_⟩
    exact hlen.imp (fun h => by simpa using h) id
  · next hr =>
    rw [hr] at hlen
    obtain h | ⟨fill, regs, ht⟩ := hlen
    · simp at h
    · simp only [ht]
      refine ⟨by simp [referenceReply, Reply.ok], by simp [hr], .inr ⟨fill, regs, ht⟩⟩

/-- An acknowledged write leaves the grant for the later transactions. -/
theorem accept_grants {e : Env} {dev : DevAddr} {n : Nat} (d : DevAddr) (reg v : Byte) (h : e.grants dev n) :
    (e.accept d reg v).grants dev n := by
  obtain ⟨hall, hlen⟩ := h
  unfold Env.accept
  split
  · exact ⟨hall, hlen⟩
  · next d0 fill regs ht =>
    split
    · refine ⟨hall, hlen.imp id ?_⟩
      rintro ⟨f, r, h⟩
      rw [ht] at h
      cases h
      exact ⟨_, _, rfl⟩
    · exact ⟨hall, hlen⟩

/-- A grant for n transactions is one for fewer. -/
theorem grants_mono {e : Env} {dev : DevAddr} {n k : Nat} (hk : k ≤ n) (h : e.grants dev n) : e.grants dev k :=
  ⟨fun r hr => h.1 r (List.take_subset_take_left _ hk hr), h.2.imp (fun h => hk.trans h) id⟩

/-- Drawing an answer keeps the reference target's registers. -/
theorem nextReply_target (e : Env) (dev : DevAddr) (reg : Byte) : (e.nextReply dev reg).2.target = e.target := by
  unfold Env.nextReply
  repeat' split
  all_goals rfl

/-- So does drawing the availability of a port. -/
theorem nextOpen_target (e : Env) : e.nextOpen.2.target = e.target := by
  unfold Env.nextOpen
  repeat' split
  all_goals rfl

/-- Drawing the availability of a port uses no answer to a transaction. -/
theorem nextOpen_replies (e : Env) : e.nextOpen.2.replies = e.replies := by
  unfold Env.nextOpen
  repeat' split
  all_goals rfl

theorem nextOpen_grants {e : Env} {dev : DevAddr} {n : Nat} (h : e.grants dev n) : e.nextOpen.2.grants dev n := by
  unfold Env.grants
  rw [nextOpen_replies, nextOpen_target]
  exact h

theorem wf_of_target {e e' : Env} (h : e'.target = e.target) (hw : e.wf = true) : e'.wf = true := by
  unfold Env.wf at *
  rw [h]
  exact hw

/-! ## The two transactions (R64, R65) -/

/-- All that `MemWrite` can do: the transaction was acknowledged and recorded, or refused and an error raised. -/
theorem memWrite_cases (dev : DevAddr) (reg v : Byte) (s : State) :
    ∃ t, Produced s t [.wr dev reg v (if (s.env.nextReply dev reg).1.ok then .ack else .nack)] s.block ∧
      t.wire = s.wire ++ [⟨s.block.busIndex, writeFrame dev reg v (s.env.nextReply dev reg).1⟩] ∧
      memWrite dev reg v s = (if (s.env.nextReply dev reg).1.ok then .done () t else .raised .transferError t) ∧
      t.env = (if (s.env.nextReply dev reg).1.ok then (s.env.nextReply dev reg).2.accept dev reg v
        else (s.env.nextReply dev reg).2) := by
  unfold memWrite
  by_cases h : (s.env.nextReply dev reg).1.ok = true
  · simp only [h, if_true]
    refine ⟨_, ?_, ?_, rfl, rfl⟩ <;> first | rfl | exact ⟨rfl, List.length_append, rfl, rfl, rfl, rfl⟩
  · simp only [h, if_false, Bool.false_eq_true]
    refine ⟨_, ?_, ?_, rfl, rfl⟩ <;> first | rfl | exact ⟨rfl, List.length_append, rfl, rfl, rfl, rfl⟩

/-- All that `MemRead` can do. -/
theorem memRead_cases (dev : DevAddr) (reg : Byte) (s : State) :
    ∃ t, Produced s t [.rd dev reg (if (s.env.nextReply dev reg).1.ok then some (s.env.nextReply dev reg).1.data
        else none)] s.block ∧
      t.wire = s.wire ++ [⟨s.block.busIndex, readFrame dev reg (s.env.nextReply dev reg).1⟩] ∧
      memRead dev reg s = (if (s.env.nextReply dev reg).1.ok then .done (s.env.nextReply dev reg).1.data t
        else .raised .transferError t) ∧
      t.env = (s.env.nextReply dev reg).2 := by
  unfold memRead
  by_cases h : (s.env.nextReply dev reg).1.ok = true
  · simp only [h, if_true]
    refine ⟨_, ?_, ?_, rfl, rfl⟩ <;> first | rfl | exact ⟨rfl, List.length_append, rfl, rfl, rfl, rfl⟩
  · simp only [h, if_false, Bool.false_eq_true]
    refine ⟨_, ?_, ?_, rfl, rfl⟩ <;> first | rfl | exact ⟨rfl, List.length_append, rfl, rfl, rfl, rfl⟩

/-- All that `BusOpen` can do (R130). -/
theorem busOpen_cases (b : Byte) (who : Owner) (s : State) :
    ((s.block.busOwner ≠ .none ∨ s.params.busCount ≤ b.toNat) ∧
      busOpen b who s = .raised .busUnavailable (s.emit (.openFail b))) ∨
    (s.block.busOwner = .none ∧ b.toNat < s.params.busCount ∧
      busOpen b who s =
        if s.env.nextOpen.1 then
          .done () { s with
            env := s.env.nextOpen.2
            trace := s.trace ++ [.opened b]
            block := { s.block with busOwner := who, busIndex := b } }
        else .raised .busUnavailable { s with env := s.env.nextOpen.2, trace := s.trace ++ [.openFail b] }) := by
  unfold busOpen
  by_cases h1 : s.block.busOwner = .none
  · by_cases h2 : s.params.busCount ≤ b.toNat
    · exact .inl ⟨.inr h2, by simp [h1, h2]⟩
    · refine .inr ⟨h1, by omega, ?_⟩
      simp only [h1, h2, ne_eq, not_true_eq_false, if_false]
      split <;> rfl
  · exact .inl ⟨.inl h1, by simp [h1]⟩

/-! ## Runs of events -/

theorem Produced.refl (s : State) : Produced s s [] s.block :=
  ⟨by simp, rfl, rfl, rfl, rfl, rfl⟩

/-- Two runs on the same port, one after the other. -/
theorem Produced.trans {s t u : State} {e₁ e₂ : List Event} {b c : Block} (h₁ : Produced s t e₁ b)
    (h₂ : Produced t u e₂ c) (hb : c.busIndex = b.busIndex) : Produced s u (e₁ ++ e₂) c := by
  refine ⟨?_, ?_, ?_, h₂.params.trans h₁.params, h₂.inputs.trans h₁.inputs, h₂.block⟩
  · rw [h₂.trace, h₁.trace, List.append_assoc]
  · rw [h₂.wire, h₁.wire, List.countP_append, Nat.add_assoc]
  · rw [h₂.mem, h₁.mem, replay_append, hb]

/-- An emitted event that is no transaction. -/
theorem Produced.event (s t : State) (e : Event) (b : Block) (ht : t.trace = s.trace ++ [e]) (hw : t.wire = s.wire)
    (hm : t.mem = s.mem) (hp : t.params = s.params) (hi : t.inputs = s.inputs) (hb : t.block = b)
    (he : e.isTransaction = false) : Produced s t [e] b := by
  refine ⟨ht, ?_, ?_, hp, hi, hb⟩
  · simp [hw, he]
  · rw [hm]
    cases e <;> first | rfl | exact absurd he (by simp [Event.isTransaction])

/-! ## Cuts -/

@[simp] theorem cutAt_length (evs : List Event) : cutAt evs evs.length = evs := by
  simp [cutAt]

@[simp] theorem cutAt_nil (n : Nat) : cutAt [] n = [] := by
  simp [cutAt]

theorem cutAt_zero (e : Event) (evs : List Event) : cutAt (e :: evs) 0 = [e.refused] := rfl

theorem cutAt_succ (e : Event) (evs : List Event) (n : Nat) : cutAt (e :: evs) (n + 1) = e :: cutAt evs n := rfl

theorem cutAt_append_left {e₁ e₂ : List Event} {n : Nat} (h : n < e₁.length) :
    cutAt (e₁ ++ e₂) n = cutAt e₁ n := by
  induction e₁ generalizing n with
  | nil => simp at h
  | cons e rest ih =>
    cases n with
    | zero => rfl
    | succ n => simp only [List.cons_append, cutAt_succ, ih (by simpa using h)]

theorem cutAt_append_right (e₁ e₂ : List Event) (n : Nat) :
    cutAt (e₁ ++ e₂) (e₁.length + n) = e₁ ++ cutAt e₂ n := by
  induction e₁ with
  | nil => simp
  | cons e rest ih => simp only [List.cons_append, List.length_cons, Nat.succ_add, cutAt_succ, ih]

/-! ## Procedures that leave the block alone -/

/-- The procedure r, started in s, performs the events `evs` in order, or stops at the first transaction that
fails; the block's record is untouched, and if the environment grants its transactions (and k more) it completes
(and the grant for the k more stays). -/
def Performs (r : Ran Unit) (s : State) (dev : DevAddr) (evs : List Event) : Prop :=
  ∃ n t, n ≤ evs.length ∧ CutPoint evs n ∧ Produced s t (cutAt evs n) s.block ∧
    r = (if n = evs.length then .done () t else .raised .transferError t) ∧
    ∀ k, s.env.grants dev (evs.countP Event.isTransaction + k) → n = evs.length ∧ t.env.grants dev k

theorem performs_nothing (s : State) (dev : DevAddr) : Performs (.done () s) s dev [] :=
  ⟨0, s, Nat.le_refl _, .inl rfl, by simpa using Produced.refl s, rfl, fun k h => ⟨rfl, by simpa using h⟩⟩

/-- One register write (R64). -/
theorem performs_memWrite (dev : DevAddr) (reg v : Byte) (s : State) :
    Performs (memWrite dev reg v s) s dev [.wr dev reg v .ack] := by
  obtain ⟨t, hp, -, hr, he⟩ := memWrite_cases dev reg v s
  by_cases h : (s.env.nextReply dev reg).1.ok = true
  · simp only [h, if_true] at hp hr he
    refine ⟨1, t, Nat.le_refl _, .inl rfl, hp, hr, fun k hg => ⟨rfl, ?_⟩⟩
    have hg : s.env.grants dev (k + 1) := by simpa [Event.isTransaction, Nat.add_comm] using hg
    exact he ▸ accept_grants dev reg v (nextReply_grants reg hg).2
  · simp only [h, if_false, Bool.false_eq_true] at hp hr he
    refine ⟨0, t, Nat.zero_le _, .inr ⟨_, rfl, rfl⟩, hp, hr, fun k hg => ?_⟩
    have hg : s.env.grants dev (k + 1) := by simpa [Event.isTransaction, Nat.add_comm] using hg
    exact absurd (nextReply_grants reg hg).1 h

/-- Two procedures in sequence. -/
theorem Performs.andThen {r : Ran Unit} {next : Unit → State → Ran Unit} {s : State} {dev : DevAddr}
    {e₁ e₂ : List Event} (h₁ : Performs r s dev e₁)
    (h₂ : ∀ t, t.block = s.block → t.params = s.params → Performs (next () t) t dev e₂) :
    Performs (r.andThen next) s dev (e₁ ++ e₂) := by
  obtain ⟨n, t, hn, hc, hp, hr, hg⟩ := h₁
  by_cases hfull : n = e₁.length
  · subst hfull
    rw [if_pos rfl] at hr
    obtain ⟨m, u, hm, hcm, hpu, hru, hgu⟩ := h₂ t hp.block hp.params
    refine ⟨e₁.length + m, u, by simpa using hm, ?_, ?_, ?_, ?_⟩
    · obtain h | ⟨e, he, ht⟩ := hcm
      · exact .inl (by simp [h])
      · exact .inr ⟨e, by rw [List.getElem?_append_right (Nat.le_add_right _ _), Nat.add_sub_cancel_left]; exact he, ht⟩
    · rw [cutAt_append_right]
      rw [cutAt_length] at hp
      have := hp.trans hpu (by rw [hp.block])
      rwa [hp.block] at this
    · rw [hr, Ran.andThen, hru]
      simp
    · intro k hk
      rw [List.countP_append, Nat.add_assoc] at hk
      obtain ⟨-, ht⟩ := hg _ hk
      obtain ⟨hm', hu⟩ := hgu k ht
      exact ⟨by simp [hm'], hu⟩
  · have hlt : n < e₁.length := by omega
    rw [if_neg hfull] at hr
    refine ⟨n, t, by simp; omega, ?_, ?_, ?_, ?_⟩
    · obtain h | ⟨e, he, ht⟩ := hc
      · exact absurd h hfull
      · exact .inr ⟨e, by rw [List.getElem?_append_left hlt]; exact he, ht⟩
    · rwa [cutAt_append_left hlt]
    · rw [hr, Ran.andThen, if_neg (by simp; omega)]
    · intro k hk
      rw [List.countP_append, Nat.add_assoc] at hk
      exact absurd (hg _ hk).1 hfull

/-- A settle wait in front of a procedure (R250). -/
theorem Performs.afterWait {next : State → Ran Unit} {s : State} {dev : DevAddr} {evs : List Event} (p : DelayName)
    (h : Performs (next (wait p s)) (wait p s) dev evs) :
    Performs (next (wait p s)) s dev (.delay p :: evs) := by
  obtain ⟨n, t, hn, hc, hp, hr, hg⟩ := h
  refine ⟨n + 1, t, by simpa using hn, ?_, ?_, by simpa using hr, ?_⟩
  · obtain h | ⟨e, he, ht⟩ := hc
    · exact .inl (by simp [h])
    · exact .inr ⟨e, by simpa using he, ht⟩
  · have := (Produced.event s (wait p s) (.delay p) s.block rfl rfl rfl rfl rfl rfl rfl).trans hp rfl
    simpa [cutAt_succ] using this
  · intro k hk
    obtain ⟨h1, h2⟩ := hg k (by simpa [Event.isTransaction] using hk)
    exact ⟨by simp [h1], h2⟩

/-- A fixed sequence of writes (R174). -/
theorem performs_writeAll (dev : DevAddr) (ws : List (Byte × Byte)) (s : State) :
    Performs (writeAll dev ws s) s dev (ws.map fun w => .wr dev w.1 w.2 .ack) := by
  induction ws generalizing s with
  | nil => exact performs_nothing s dev
  | cons w rest ih => exact (performs_memWrite dev w.1 w.2 s).andThen fun t _ _ => ih t

/-! ## The cleanup (R173) -/

/-- The events of best-effort zero writes with the given outcomes. -/
def zeroEvents (dev : DevAddr) : List Byte → List Bool → List Event
  | reg :: regs, a :: acks => .wr dev reg 0x00#8 (if a then .ack else .nack) :: zeroEvents dev regs acks
  | _, _ => []

/-- Every write of the best-effort pass is attempted, whatever the outcomes. -/
theorem zeroIgnoring_produced (dev : DevAddr) (regs : List Byte) (s : State) :
    ∃ acks, acks.length = regs.length ∧
      Produced s (zeroIgnoring dev regs s) (zeroEvents dev regs acks) s.block := by
  induction regs generalizing s with
  | nil => exact ⟨[], rfl, Produced.refl s⟩
  | cons reg rest ih =>
    obtain ⟨t, hp, -, hr, -⟩ := memWrite_cases dev reg 0x00#8 s
    obtain ⟨acks, hl, hq⟩ := ih t
    refine ⟨(s.env.nextReply dev reg).1.ok :: acks, by simp [hl], ?_⟩
    have hi : ignoreErrors (memWrite dev reg 0x00#8 s) = t := by
      rw [hr]; split <;> rfl
    have := hp.trans hq (by rw [hp.block])
    rw [hp.block] at this
    simpa only [zeroIgnoring, hi, zeroEvents, List.singleton_append] using this

/-- The registers of the cleanup and of StopAllChannels are 0x06 .. 0x45, ascending (R173, R178). -/
theorem channelRegs_all : allChannels.flatMap channelRegs = (List.range 64).map fun k => BitVec.ofNat 8 (6 + k) := by
  decide

theorem zeroEvents_eq (dev : DevAddr) (f : Nat → Byte) (acks : List Bool) (n : Nat) (h : acks.length = n) :
    zeroEvents dev ((List.range n).map f) acks =
      acks.mapIdx fun k a => .wr dev (f k) 0x00#8 (if a then .ack else .nack) := by
  induction acks generalizing n f with
  | nil => subst h; rfl
  | cons a rest ih =>
    subst h
    simp only [List.length_cons, List.range_succ_eq_map, List.map_cons, List.map_map, zeroEvents,
      List.mapIdx_cons]
    exact congrArg _ (ih (f ∘ Nat.succ) rest.length rfl)

/-- All that `Cleanup` does when the controller holds the bus: 64 attempts, the close, and the end state. -/
theorem cleanup_pwc (s : State) (h : s.block.busOwner = .pwc) :
    ∃ acks, acks.length = 64 ∧ Produced s (cleanup s) (cleanupEvents s.block.devAddr acks)
      { s.block with busOwner := .none, ctlState := .closed } := by
  obtain ⟨acks, hl, hp⟩ := zeroIgnoring_produced s.block.devAddr (allChannels.flatMap channelRegs) s
  rw [channelRegs_all] at hl hp
  have hl : acks.length = 64 := by simpa using hl
  rw [zeroEvents_eq s.block.devAddr _ acks 64 hl] at hp
  refine ⟨acks, hl, ?_⟩
  have hc : cleanup s =
      (busClose (zeroIgnoring s.block.devAddr ((List.range 64).map fun k => BitVec.ofNat 8 (6 + k)) s)).setCtl
        .closed := by
    simp only [cleanup, h, if_true, channelRegs_all]
  rw [hc]
  generalize zeroIgnoring s.block.devAddr ((List.range 64).map fun k => BitVec.ofNat 8 (6 + k)) s = z at hp
  refine hp.trans (c := { s.block with busOwner := .none, ctlState := .closed }) ?_ rfl
  exact Produced.event z _ .closed _ rfl rfl rfl rfl rfl (by simp [hp.block]) rfl

/-- `Cleanup` does nothing at all when the controller does not hold the bus. -/
theorem cleanup_other (s : State) (h : s.block.busOwner ≠ .pwc) : cleanup s = s := by
  simp only [cleanup, h, if_false]

end Sys2Proof.Machine
end

