-- ==== Sys2Proof/Laws/PerInstr.lean ====
section
/-! SUPPORT. The family FrameShape, one lemma per command: the frame of a command has the length of its format
(R91), its first byte is the command's opcode, and that byte stands for the opcode (R93). -/

namespace Sys2Proof.Laws

/-- R91, R93: the shape of a command's frame. -/
def FrameShape.Statement (i : Instr) : Prop :=
  (encode i).length = i.opcode.frameLength ∧ (encode i).head? = some i.opcode.code ∧
    opcodeOf i.opcode.code = some i.opcode

theorem FrameShape.busOpen (bus : Byte) : FrameShape.Statement (.busOpen bus) := ⟨rfl, rfl, rfl⟩

theorem FrameShape.busWrite (addr : Byte) (reg : Byte) (val : Byte) :
    FrameShape.Statement (.busWrite addr reg val) := ⟨rfl, rfl, rfl⟩

theorem FrameShape.busRead (addr : Byte) (reg : Byte) : FrameShape.Statement (.busRead addr reg) := ⟨rfl, rfl, rfl⟩

theorem FrameShape.busClose : FrameShape.Statement .busClose := ⟨rfl, rfl, rfl⟩

theorem FrameShape.pwmConstruct (bus : Byte) (addr : Byte) (freq : D6) :
    FrameShape.Statement (.pwmConstruct bus addr freq) := ⟨rfl, rfl, rfl⟩

theorem FrameShape.pwmSetTicks (ch : Byte) (on : BitVec 16) (off : BitVec 16) :
    FrameShape.Statement (.pwmSetTicks ch on off) := ⟨rfl, rfl, rfl⟩

theorem FrameShape.pwmSetPulse (ch : Byte) (pulse : D6) :
    FrameShape.Statement (.pwmSetPulse ch pulse) := ⟨rfl, rfl, rfl⟩

theorem FrameShape.pwmStopAll : FrameShape.Statement .pwmStopAll := ⟨rfl, rfl, rfl⟩

theorem FrameShape.pwmClose : FrameShape.Statement .pwmClose := ⟨rfl, rfl, rfl⟩

theorem FrameShape.mapConstruct (sCh : Byte) (sCenter : D6) (sHalf : D6) (tCh : Byte) (tCenter : D6) (tHalf : D6) :
    FrameShape.Statement (.mapConstruct sCh sCenter sHalf tCh tCenter tHalf) := ⟨rfl, rfl, rfl⟩

theorem FrameShape.mapSetSteering (cmd : D6) : FrameShape.Statement (.mapSetSteering cmd) := ⟨rfl, rfl, rfl⟩

theorem FrameShape.mapSetThrottle (cmd : D6) : FrameShape.Statement (.mapSetThrottle cmd) := ⟨rfl, rfl, rfl⟩

theorem FrameShape.mapRecalCenter (axis : Byte) (center : D6) :
    FrameShape.Statement (.mapRecalCenter axis center) := ⟨rfl, rfl, rfl⟩

theorem FrameShape.mapStop : FrameShape.Statement .mapStop := ⟨rfl, rfl, rfl⟩

theorem FrameShape.mapShutdown : FrameShape.Statement .mapShutdown := ⟨rfl, rfl, rfl⟩

end Sys2Proof.Laws
end

