-- ==== Sys2Proof/Laws/Procedures.lean ====
section
/-! SUPPORT. What the procedures of the PWM Controller and of the Mapper do, said once: the events each performs,
and the end states of the init sequence and of the shutdown body. -/

namespace Sys2Proof.Machine

/-! ## Responding (R99, R236) -/

/-- A response after some events. -/
theorem Produced.respond {s t : State} {evs : List Event} {b : Block} (h : Produced s t evs b) (st : Status)
    (d : Option Byte) : Produced s (t.respond st d) (evs ++ [.resp st d]) { b with lastStatus := st } := by
  refine h.trans (Produced.event t _ _ _ rfl rfl rfl rfl rfl ?_ rfl) rfl
  rw [respond_block, h.block]

/-- The end of a command whose errors are not fatal: the events it performed, then OK or TransferError. -/
theorem Performs.answered {r : Ran Unit} {s : State} {dev : DevAddr} {evs : List Event} (h : Performs r s dev evs) :
    ∃ n, n ≤ evs.length ∧ CutPoint evs n ∧ Answered s (answer r) (cutAt evs n) (cutStatus evs n) s.block ∧
      (s.env.grants dev (evs.countP Event.isTransaction) → n = evs.length) := by
  obtain ⟨n, t, hn, hc, hp, hr, hg⟩ := h
  refine ⟨n, hn, hc, ?_, fun h => (hg 0 h).1⟩
  rw [hr, cutStatus]
  split <;> exact hp.respond _ _

/-- A command refused by its first test answers the error and does nothing else. -/
theorem failWith_refuses {i : Instr} {s : State} {e : Error} (h : exec i s = .next (failWith e s)) :
    Refuses i s e :=
  ⟨_, h, Produced.event s _ _ _ rfl rfl rfl rfl rfl rfl rfl, rfl, rfl⟩

/-! ## Tick pairs (R106, R156, R161) -/

theorem tickLow_eq (t : Tick) : tickLow t = BitVec.ofNat 8 (t.toNat % 256) := by
  apply BitVec.eq_of_toNat_eq
  simp [tickLow, BitVec.extractLsb'_toNat]

theorem tickHigh_eq (t : Tick) : tickHigh t = BitVec.ofNat 8 (t.toNat / 256) := by
  have ht := t.isLt
  apply BitVec.eq_of_toNat_eq
  simp only [tickHigh, BitVec.toNat_append, BitVec.extractLsb'_toNat, BitVec.toNat_ofNat, Nat.shiftRight_eq_div_pow]
  simp
  omega

/-- R161 with the offsets of R106: no wrap for a valid channel, and mod 256 in any case. -/
theorem baseReg_add (c : Byte) (k n : Nat) (h : n = 6 + k) :
    baseReg c + BitVec.ofNat 8 k = BitVec.ofNat 8 (n + 4 * c.toNat) := by
  apply BitVec.eq_of_toNat_eq
  simp only [baseReg, Config.regChBase, Config.regChStride, BitVec.toNat_add, BitVec.toNat_mul, BitVec.toNat_ofNat]
  omega

/-- The writes of the model are those of R106. -/
theorem tickPairWrites_events (dev : DevAddr) (c : Byte) (on off : Tick) :
    ((tickPairWrites c on off).map fun w => Event.wr dev w.1 w.2 .ack) = tickEvents dev c on off := by
  have h0 := baseReg_add c 0 6 rfl
  simp only [BitVec.add_zero] at h0
  simp only [tickPairWrites, tickEvents, List.map, tickLow_eq, tickHigh_eq, baseReg_add c 1 7 rfl,
    baseReg_add c 2 8 rfl, baseReg_add c 3 9 rfl]
  rw [h0]

/-- R174: a valid channel. -/
theorem performs_setChannelTicks {c : Byte} (h : c.toNat ≤ 15) (on off : Tick) (s : State) :
    Performs (setChannelTicks c on off s) s s.block.devAddr (tickEvents s.block.devAddr c on off) := by
  have hn : ¬ 15 < c.toNat := by omega
  simp only [setChannelTicks, hn, if_false, ← tickPairWrites_events]
  exact performs_writeAll _ _ _

/-- R174: an invalid channel is refused before any bus access. -/
theorem setChannelTicks_invalid {c : Byte} (h : 15 < c.toNat) (on off : Tick) (s : State) :
    setChannelTicks c on off s = .raised .invalidChannel s := by
  simp only [setChannelTicks, h, if_true]

/-- R176. -/
theorem performs_setPulseWidth {c : Byte} (h : c.toNat ≤ 15) (p : Q) (s : State) :
    Performs (setPulseWidth c p s) s s.block.devAddr
      (tickEvents s.block.devAddr c 0#12 (dutyTick p s.block.freq)) :=
  performs_setChannelTicks h _ _ s

/-- R202. -/
theorem performs_setAxis {a : Axis} {s : State} (h : (s.block.cal a).channel.toNat ≤ 15) (x : Q) :
    Performs (setAxis a x s) s s.block.devAddr (axisEvents s.block a x) :=
  performs_setPulseWidth h _ s

/-- R206: throttle first. -/
theorem performs_stopAxes {s : State} (h : ∀ a, (s.block.cal a).channel.toNat ≤ 15) :
    Performs (stopAxes s) s s.block.devAddr (stopEvents s.block) := by
  refine (performs_setAxis (h .throttle) 0).andThen fun t hb _ => ?_
  have := performs_setAxis (s := t) (a := .steering) (by rw [hb]; exact h .steering) 0
  rwa [hb] at this

theorem tickEvents_zero (dev : DevAddr) (c : Byte) :
    tickEvents dev c 0#12 0#12 = (channelRegs c).map fun r => .wr dev r 0x00#8 .ack := by
  rw [← tickPairWrites_events]
  rfl

theorem stopAllEvents_eq (dev : DevAddr) :
    stopAllEvents dev = allChannels.flatMap fun c => tickEvents dev c 0#12 0#12 := by
  simp only [tickEvents_zero, ← List.map_flatMap, channelRegs_all, stopAllEvents, List.map_map, Function.comp_def]

/-- R178: the loop over valid channels. -/
theorem performs_stopChannels (dev : DevAddr) (cs : List Byte) (h : ∀ c ∈ cs, c.toNat ≤ 15) (s : State)
    (hd : s.block.devAddr = dev) :
    Performs (stopChannels cs s) s dev (cs.flatMap fun c => tickEvents dev c 0#12 0#12) := by
  induction cs generalizing s with
  | nil => exact performs_nothing s dev
  | cons c rest ih =>
    rw [List.flatMap_cons]
    refine Performs.andThen (by simpa only [hd] using performs_setChannelTicks (h c (by simp)) 0#12 0#12 s)
      fun t hb _ => ih (fun c' hc' => h c' (by simp [hc'])) t (by rw [hb, hd])

/-- R178: 64 zero writes, ascending. -/
theorem performs_stopAllChannels (s : State) :
    Performs (stopAllChannels s) s s.block.devAddr (stopAllEvents s.block.devAddr) := by
  rw [stopAllEvents_eq]
  exact performs_stopChannels _ _ (by decide) s rfl

/-- The try block of R208. -/
theorem performs_shutdownSequence {s : State} (h : ∀ a, (s.block.cal a).channel.toNat ≤ 15) :
    Performs (shutdownSequence s) s s.block.devAddr (shutdownEvents s.block) := by
  refine (performs_stopAxes h).andThen fun t hb _ => ?_
  have := Performs.afterWait (next := stopAllChannels) (s := t) .settleNeutral
    (performs_stopAllChannels (wait .settleNeutral t))
  simpa only [wait_block, hb] using this

/-! ## The init sequence (R172) -/

/-- The block's record when the init sequence has performed n of its events and step 2 returned m (R23). -/
def initBlock (b : Block) (m : Byte) (n : Nat) : Block :=
  { b with
    savedMode := if 2 ≤ n then m else b.savedMode
    ctlState := if n = 7 then .awake else if 3 ≤ n then .sleeping else b.ctlState }

theorem Produced.withBlock {s t : State} {evs : List Event} {b : Block} (h : Produced s t evs b) (c : Block)
    (hc : c.busIndex = b.busIndex) : Produced s { t with block := c } evs c :=
  ⟨h.trace, h.wire, by rw [hc]; exact h.mem, h.params, h.inputs, rfl⟩

/-- One write of the init sequence: acknowledged, or the end of it. -/
theorem memWrite_or (dev : DevAddr) (reg v : Byte) (s : State) :
    (∃ t, Produced s t [.wr dev reg v .ack] s.block ∧ memWrite dev reg v s = .done () t ∧
      ∀ k, s.env.grants dev (k + 1) → t.env.grants dev k) ∨
    (∃ t, Produced s t [.wr dev reg v .nack] s.block ∧ memWrite dev reg v s = .raised .transferError t ∧
      ∀ k, ¬ s.env.grants dev (k + 1)) := by
  obtain ⟨t, hp, -, hr, he⟩ := memWrite_cases dev reg v s
  by_cases h : (s.env.nextReply dev reg).1.ok = true
  · simp only [h, if_true] at hp hr he
    exact .inl ⟨t, hp, hr, fun k hk => he ▸ accept_grants dev reg v (nextReply_grants reg hk).2⟩
  · simp only [h, if_false, Bool.false_eq_true] at hp hr
    exact .inr ⟨t, hp, hr, fun k hk => h (nextReply_grants reg hk).1⟩

/-- The read of the init sequence. -/
theorem memRead_or (dev : DevAddr) (reg : Byte) (s : State) :
    (∃ m t, Produced s t [.rd dev reg (some m)] s.block ∧ memRead dev reg s = .done m t ∧
      ∀ k, s.env.grants dev (k + 1) → t.env.grants dev k) ∨
    (∃ t, Produced s t [.rd dev reg none] s.block ∧ memRead dev reg s = .raised .transferError t ∧
      ∀ k, ¬ s.env.grants dev (k + 1)) := by
  obtain ⟨t, hp, -, hr, he⟩ := memRead_cases dev reg s
  by_cases h : (s.env.nextReply dev reg).1.ok = true
  · simp only [h, if_true] at hp hr
    exact .inl ⟨_, t, hp, hr, fun k hk => he ▸ (nextReply_grants reg hk).2⟩
  · simp only [h, if_false, Bool.false_eq_true] at hp hr
    exact .inr ⟨t, hp, hr, fun k hk => h (nextReply_grants reg hk).1⟩

/-- All that `InitSequence` can do. -/
theorem initSequence_cases (s : State) :
    ∃ m n t, n ≤ 7 ∧ CutPoint (initEvents s.block.devAddr s.params s.block.prescale m) n ∧
      Produced s t (cutAt (initEvents s.block.devAddr s.params s.block.prescale m) n) (initBlock s.block m n) ∧
      initSequence s = (if n = 7 then .done () t else .raised .transferError t) ∧
      (s.env.grants s.block.devAddr 6 → n = 7) := by
  generalize hd : s.block.devAddr = d
  unfold initSequence
  rw [hd]
  -- step 1
  obtain ⟨t1, hp1, hr1, hg1⟩ | ⟨t1, hp1, hr1, hg1⟩ := memWrite_or d Config.regMode 0x00#8 s
  case inr => exact ⟨0, 0, t1, by omega, .inr ⟨_, rfl, rfl⟩, hp1, by rw [hr1]; rfl, fun h => absurd h (hg1 5)⟩
  have hd1 : t1.block.devAddr = d := by rw [hp1.block, hd]
  simp only [hr1, Ran.andThen, hd1]
  -- step 2
  obtain ⟨m, t2, hp2, hr2, hg2⟩ | ⟨t2, hp2, hr2, hg2⟩ := memRead_or d Config.regMode t1
  case inr =>
    refine ⟨0, 1, t2, by omega, .inr ⟨_, rfl, rfl⟩, ?_, by rw [hr2]; rfl, fun h => absurd (hg1 5 h) (hg2 4)⟩
    have := hp1.trans hp2 (by rw [hp1.block]); rw [hp1.block] at this; exact this
  have q2 : Produced s (t2.setSavedMode m) ([.wr d 0x00#8 0x00#8 .ack] ++ [.rd d 0x00#8 (some m)])
      (initBlock s.block m 2) := by
    have := (hp1.trans hp2 (by rw [hp1.block])).withBlock (initBlock s.block m 2) (by rw [hp1.block]; rfl)
    have e : t2.setSavedMode m = { t2 with block := initBlock s.block m 2 } := by
      rw [State.setSavedMode, hp2.block, hp1.block]; rfl
    rwa [e]
  have g2 : ∀ k, t1.env.grants d (k + 1) → (t2.setSavedMode m).env.grants d k := hg2
  simp only [hr2]
  generalize t2.setSavedMode m = u2 at q2 g2
  have hd2 : u2.block.devAddr = d := by rw [q2.block]; exact hd
  simp only [hd2, q2.params, show u2.block.savedMode = m by rw [q2.block]; rfl]
  refine ⟨m, ?_⟩
  -- step 3
  obtain ⟨t3, hp3, hr3, hg3⟩ | ⟨t3, hp3, hr3, hg3⟩ :=
    memWrite_or d Config.regMode (m ||| s.params.sleepMask) u2
  case inr =>
    refine ⟨2, t3, by omega, .inr ⟨_, rfl, rfl⟩, ?_, by rw [hr3]; rfl,
      fun h => absurd (g2 4 (hg1 5 h)) (hg3 3)⟩
    have := q2.trans hp3 (by rw [q2.block]); rw [q2.block] at this; exact this
  have q3 := (q2.trans hp3 (by rw [q2.block])).withBlock (initBlock s.block m 3) (by rw [q2.block]; rfl)
  have e3 : t3.setCtl .sleeping = { t3 with block := initBlock s.block m 3 } := by
    rw [State.setCtl, hp3.block, q2.block]; rfl
  rw [← e3] at q3
  have g3 : ∀ k, u2.env.grants d (k + 1) → (t3.setCtl .sleeping).env.grants d k := hg3
  simp only [hr3]
  generalize t3.setCtl .sleeping = u3 at q3 g3
  have hd3 : u3.block.devAddr = d := by rw [q3.block]; exact hd
  simp only [hd3, show u3.block.prescale = s.block.prescale by rw [q3.block]; rfl]
  -- step 4
  obtain ⟨t4, hp4, hr4, hg4⟩ | ⟨t4, hp4, hr4, hg4⟩ := memWrite_or d Config.regPrescale s.block.prescale u3
  case inr =>
    refine ⟨3, t4, by omega, .inr ⟨_, rfl, rfl⟩, ?_, by rw [hr4]; rfl,
      fun h => absurd (g3 3 (g2 4 (hg1 5 h))) (hg4 2)⟩
    have := q3.trans hp4 (by rw [q3.block]); rw [q3.block] at this; exact this
  have q4 := q3.trans hp4 (by rw [q3.block])
  rw [q3.block] at q4
  have hd4 : t4.block.devAddr = d := by rw [q4.block]; exact hd
  simp only [hr4, hd4, show t4.block.savedMode = m by rw [q4.block]; rfl]
  -- step 5 and the wait
  obtain ⟨t5, hp5, hr5, hg5⟩ | ⟨t5, hp5, hr5, hg5⟩ := memWrite_or d Config.regMode m t4
  case inr =>
    refine ⟨4, t5, by omega, .inr ⟨_, rfl, rfl⟩, ?_, by rw [hr5]; rfl,
      fun h => absurd (hg4 2 (g3 3 (g2 4 (hg1 5 h)))) (hg5 1)⟩
    have := q4.trans hp5 (by rw [q4.block]); rw [q4.block] at this; exact this
  have q5 := q4.trans hp5 (by rw [q4.block])
  rw [q4.block] at q5
  have q6 := q5.trans (Produced.event t5 (wait .settleWake t5) (.delay .settleWake) t5.block rfl rfl rfl rfl rfl
    rfl rfl) (by rw [q5.block])
  rw [q5.block] at q6
  have g5 : ∀ k, t4.env.grants d (k + 1) → (wait .settleWake t5).env.grants d k := hg5
  simp only [hr5]
  generalize wait .settleWake t5 = u6 at q6 g5
  have hd6 : u6.block.devAddr = d := by rw [q6.block]; exact hd
  simp only [hd6, show u6.block.savedMode = m by rw [q6.block]; rfl, q6.params]
  -- step 6
  obtain ⟨t7, hp7, hr7, hg7⟩ | ⟨t7, hp7, hr7, hg7⟩ :=
    memWrite_or d Config.regMode (m ||| s.params.resumeMask) u6
  case inr =>
    refine ⟨6, t7, by omega, .inr ⟨_, rfl, rfl⟩, ?_, by rw [hr7]; rfl,
      fun h => absurd (g5 1 (hg4 2 (g3 3 (g2 4 (hg1 5 h))))) (hg7 0)⟩
    have := q6.trans hp7 (by rw [q6.block]); rw [q6.block] at this; exact this
  refine ⟨7, t7.setCtl .awake, by omega, .inl rfl, ?_, by rw [hr7]; rfl, fun _ => rfl⟩
  have := (q6.trans hp7 (by rw [q6.block])).withBlock (initBlock s.block m 7) (by rw [q6.block]; rfl)
  have e : t7.setCtl .awake = { t7 with block := initBlock s.block m 7 } := by
    rw [State.setCtl, hp7.block, q6.block]; rfl
  rw [e]
  exact this

/-! ## The body of the shutdown (R208) -/

/-- All that the body can do with an awake controller: the whole sequence and the close, or the sequence cut at
the failing write, then the cleanup. -/
theorem shutdownBody_awake {s : State} (hs : s.block.ctlState = .awake) (ho : s.block.busOwner = .pwc)
    (hc : ∀ a, (s.block.cal a).channel.toNat ≤ 15) :
    ∃ n acks t, n ≤ (shutdownEvents s.block).length ∧ CutPoint (shutdownEvents s.block) n ∧ acks.length = 64 ∧
      shutdownBody s = (cutStatus (shutdownEvents s.block) n, t) ∧
      Produced s t (cutAt (shutdownEvents s.block) n ++
          if n = (shutdownEvents s.block).length then [.closed] else cleanupEvents s.block.devAddr acks)
        { s.block with mapState := .shutDown, busOwner := .none, ctlState := .closed } ∧
      (s.env.grants s.block.devAddr 72 → n = (shutdownEvents s.block).length) := by
  obtain ⟨n, u, hn, hcut, hp, hr, hg⟩ := performs_shutdownSequence (s := s.setMap .shutDown) hc
  have ev : shutdownEvents (s.setMap .shutDown).block = shutdownEvents s.block := rfl
  rw [ev] at hn hcut hp hr hg
  have q : Produced s u (cutAt (shutdownEvents s.block) n) { s.block with mapState := .shutDown } :=
    ⟨hp.trace, hp.wire, hp.mem, hp.params, hp.inputs, hp.block⟩
  have hgr : s.env.grants s.block.devAddr 72 → n = (shutdownEvents s.block).length := fun h => (hg 0 h).1
  have hne : ¬ (s.setMap .shutDown).block.ctlState ≠ .awake := by simp [hs]
  by_cases hfull : n = (shutdownEvents s.block).length
  · refine ⟨n, List.replicate 64 true, (busClose u).setCtl .closed, hn, hcut, List.length_replicate, ?_, ?_, hgr⟩
    · simp only [shutdownBody, hne, if_false, hr, hfull, if_true, cutStatus]
    · simp only [hfull, if_true]
      rw [hfull] at q
      refine q.trans (c := { s.block with mapState := .shutDown, busOwner := .none, ctlState := .closed }) ?_ rfl
      exact Produced.event u _ .closed _ rfl rfl rfl rfl rfl (by simp [q.block]) rfl
  · obtain ⟨acks, ha, hcl⟩ := cleanup_pwc u (by rw [q.block]; exact ho)
    refine ⟨n, acks, cleanup u, hn, hcut, ha, ?_, ?_, hgr⟩
    · simp only [shutdownBody, hne, if_false, hr, hfull, cutStatus]
    · simp only [hfull, if_false]
      have hd : u.block.devAddr = s.block.devAddr := by rw [q.block]
      rw [hd, q.block] at hcl
      exact q.trans hcl rfl

/-- With the controller closed behind the Mapper only map_state changes (R208). -/
theorem shutdownBody_closed {s : State} (hs : s.block.ctlState ≠ .awake) :
    shutdownBody s = (.error .invalidState, s.setMap .shutDown) := by
  simp only [shutdownBody, setMap_block, ne_eq, hs, not_false_eq_true, if_true]

end Sys2Proof.Machine
end

