-- ==== Sys2Proof/Tests/Slice0.lean ====
section
/-! SUPPORT. Own tests. Expected values come from spec/95_test_vectors.md (the vector's name stands at each test) or
from the encoding rows of spec/30_encoding.md; then, for every statement with hypotheses, a state and operands that
meet them. -/

namespace Sys2Proof.Tests

open Sys2Proof.Machine

/-! ## Fixtures (95_test_vectors.md section 0) -/

/-- A frame from its bytes. -/
def frame (l : List Nat) : List Byte := l.map (BitVec.ofNat 8)

/-- S0 with two ports and the reference target T0 at 0x40, all its registers 0x00. -/
def start : State :=
  { State.reset with
    params := { Config.params with busCount := 2 }
    env := { opens := [], replies := [], drawn := 0, target := .reference 0x40#7 0x00#8 [] } }

/-- The state after vector P1, its trace forgotten. -/
def controller : State :=
  { start with
    block := { Block.reset with
      busOwner := .pwc
      busIndex := 1#8
      ctlState := .awake
      devAddr := 0x40#7
      freq := 60
      prescale := 101#8 } }

/-- The state after vector M1, its trace forgotten. -/
def mapper : State :=
  { controller with
    block := { controller.block with
      mapState := .active
      calSteering := { channel := 0#8, center := 9 / 5, half := 1 / 2 }
      calThrottle := { channel := 1#8, center := 3 / 2, half := 2 / 5 } } }

/-- The host holds the handle of port 0 (after BUS_OPEN 0). -/
def hosted : State := { start with block := { Block.reset with busOwner := .host } }

/-- After PWM_CLOSE behind the Mapper (vector M11). -/
def closed : State := { mapper with block := { mapper.block with busOwner := .none, ctlState := .closed } }

/-- After PWM_CLOSE and BUS_OPEN behind the Mapper. -/
def reopened : State := { closed with block := { closed.block with busOwner := .host } }

/-- The next transactions are answered as listed: acknowledged or not. -/
def drawing (s : State) (acks : List Bool) : State :=
  { s with
    env := { s.env with
      replies := acks.map fun a => { first := if a then .ack else .nack, second := .ack, third := .ack, data := 0#8 } } }

/-- The block's record and the trace after one step that runs the frame. -/
def after (s : State) (l : List Nat) : Option (Block × List Event) :=
  match step (offerFrame s (frame l)) with
  | .next t => some (t.block, t.trace)
  | .fault _ => none
  | .refused _ => none

/-- The trace of one step that runs the frame. -/
def events (s : State) (l : List Nat) : Option (List Event) := (after s l).map Prod.snd

/-- An acknowledged write to T0. -/
def wr (reg v : Nat) : Event := .wr 0x40#7 (BitVec.ofNat 8 reg) (BitVec.ofNat 8 v) .ack

/-- Z64 of 95_test_vectors.md. -/
def z64 : List Event := (List.range 64).map fun k => wr (6 + k) 0

/-! ## WellFormed: an ill-formed command for each check (R92) -/

theorem test_illFormed_address_bit7 : ¬ (Instr.busWrite 0x80#8 0x00#8 0x00#8).WellFormed ∧
    ¬ (Instr.busRead 0xC0#8 0x00#8).WellFormed ∧ ¬ (Instr.pwmConstruct 0#8 0x80#8 0#32).WellFormed := by decide

theorem test_illFormed_tick_bits : ¬ (Instr.pwmSetTicks 0#8 0x1000#16 0#16).WellFormed ∧
    ¬ (Instr.pwmSetTicks 0#8 0#16 0x8000#16).WellFormed := by decide

theorem test_illFormed_axis : ¬ (Instr.mapRecalCenter 2#8 0#32).WellFormed := by decide

/-! ## Decoding: every command's frame written out (vector E1) -/

theorem test_decode_busOpen : decode (frame [0x01, 0x00]) = .ok (.busOpen 0#8) := by decide
theorem test_decode_busWrite : decode (frame [0x02, 0x40, 0xFE, 0x65]) = .ok (.busWrite 0x40#8 0xFE#8 0x65#8) := by
  decide
theorem test_decode_busRead : decode (frame [0x03, 0x40, 0x00]) = .ok (.busRead 0x40#8 0x00#8) := by decide
theorem test_decode_busClose : decode (frame [0x04]) = .ok .busClose := by decide
theorem test_decode_pwmConstruct : decode (frame [0x10, 0x01, 0x40, 0x03, 0x93, 0x87, 0x00]) =
    .ok (.pwmConstruct 1#8 0x40#8 60000000#32) := by decide
theorem test_decode_pwmSetTicks : decode (frame [0x11, 0x0F, 0x00, 0x00, 0x0F, 0xFF]) =
    .ok (.pwmSetTicks 15#8 0#16 4095#16) := by decide
theorem test_decode_pwmSetPulse : decode (frame [0x12, 0x00, 0x00, 0x16, 0xE3, 0x60]) =
    .ok (.pwmSetPulse 0#8 1500000#32) := by decide
theorem test_decode_pwmStopAll : decode (frame [0x13]) = .ok .pwmStopAll := by decide
theorem test_decode_pwmClose : decode (frame [0x14]) = .ok .pwmClose := by decide
theorem test_decode_mapConstruct :
    decode (frame [0x20, 0x00, 0x00, 0x1B, 0x77, 0x40, 0x00, 0x07, 0xA1, 0x20, 0x01, 0x00, 0x16, 0xE3, 0x60,
      0x00, 0x06, 0x1A, 0x80]) =
    .ok (.mapConstruct 0#8 1800000#32 500000#32 1#8 1500000#32 400000#32) := by decide
theorem test_decode_mapSetSteering : decode (frame [0x21, 0xFF, 0xF0, 0xBD, 0xC0]) =
    .ok (.mapSetSteering (BitVec.ofInt 32 (-1000000))) := by decide
theorem test_decode_mapSetThrottle : decode (frame [0x22, 0x00, 0x07, 0xA1, 0x20]) =
    .ok (.mapSetThrottle 500000#32) := by decide
theorem test_decode_mapRecalCenter : decode (frame [0x23, 0x00, 0x00, 0x1C, 0xFD, 0xE0]) =
    .ok (.mapRecalCenter 0#8 1900000#32) := by decide
theorem test_decode_mapStop : decode (frame [0x24]) = .ok .mapStop := by decide
theorem test_decode_mapShutdown : decode (frame [0x25]) = .ok .mapShutdown := by decide

/-- Vector E2. -/
theorem test_decode_illegal :
    ([[], [0x00], [0x05], [0x0F], [0x15], [0x1F], [0x26], [0xFF], [0x01], [0x01, 0x00, 0x00], [0x13, 0x00],
      [0x24, 0x00], [0x21, 0x00, 0x00, 0x00], [0x10, 0x00, 0x40, 0x03, 0x93, 0x87], [0x02, 0x80, 0x00, 0x00],
      [0x03, 0xC0, 0x00], [0x10, 0x00, 0x80, 0x03, 0x93, 0x87, 0x00], [0x11, 0x00, 0x10, 0x00, 0x00, 0x00],
      [0x11, 0x00, 0x00, 0x00, 0x10, 0x00], [0x23, 0x02, 0x00, 0x16, 0xE3, 0x60]].all fun l =>
        match decode (frame l) with
        | .ok _ => false
        | .error _ => true) = true := by decide

/-- The table's numbering: the match values of rows BUS_OPEN, PWM_SET_TICKS and MAP_SHUTDOWN (R93), and operands. -/
theorem test_decodeTableWord : decodeTableWord 16 0x0100 = some (.busOpen 0#8) ∧
    decodeTableWord 48 0x110F00000FFF = some (.pwmSetTicks 15#8 0#16 4095#16) ∧
    decodeTableWord 8 0x25 = some .mapShutdown ∧ decodeTableWord 48 0x110010000000 = none := by decide

/-- R101, R102: the short form of PWM_CONSTRUCT means address 0x40; a seventh digit after the point is refused. -/
theorem test_assemble : assemble "PWM_CONSTRUCT" [.num 1, .num 60] = some (.pwmConstruct 1#8 0x40#8 60000000#32) ∧
    assemble "MAP_RECAL_CENTER" [.throttle, .num (8 / 5)] = some (.mapRecalCenter 1#8 1600000#32) ∧
    assemble "MAP_SET_STEERING" [.num (1 / 10000000)] = none := by decide +kernel

/-! ## One step on a small state -/

/-- E3: decode, then the state test, then the operand tests. -/
theorem test_order_of_tests : events start [0x11, 0x00, 0x10, 0x00, 0x00, 0x00] =
      some [.resp (.error .illegalCommand) none] ∧
    events start [0x12, 0x10, 0x00, 0x16, 0xE3, 0x60] = some [.resp (.error .invalidState) none] := by decide +kernel

/-- B1 line 1. -/
theorem test_busOpen : after start [0x01, 0x00] =
    some ({ Block.reset with busOwner := .host }, [.opened 0#8, .resp .ok none]) := by decide +kernel
/-- B2: port 2 of 2. -/
theorem test_busOpen_absent : events start [0x01, 0x02] =
    some [.openFail 2#8, .resp (.error .busUnavailable) none] := by decide +kernel
/-- B3. -/
theorem test_busWrite : events hosted [0x02, 0x40, 0xFE, 0x65] = some [wr 0xFE 0x65, .resp .ok none] := by
  decide +kernel
/-- B3: no device at 0x41. -/
theorem test_busWrite_nack : events hosted [0x02, 0x41, 0x00, 0x00] =
    some [.wr 0x41#7 0#8 0#8 .nack, .resp (.error .transferError) none] := by decide +kernel
/-- B3. -/
theorem test_busRead : events { hosted with env := { hosted.env with target := .reference 0x40#7 0x65#8 [] } }
    [0x03, 0x40, 0xFE] = some [.rd 0x40#7 0xFE#8 (some 0x65#8), .resp .ok (some 0x65#8)] := by decide +kernel
/-- B3. -/
theorem test_busRead_nack : events hosted [0x03, 0x41, 0x00] =
    some [.rd 0x41#7 0#8 none, .resp (.error .transferError) none] := by decide +kernel
/-- B4, B1 line 10. -/
theorem test_busClose : events hosted [0x04] = some [.closed, .resp .ok none] ∧
    events controller [0x04] = some [.resp (.error .invalidState) none] := by decide +kernel

/-- P1. -/
theorem test_pwmConstruct : after start [0x10, 0x01, 0x40, 0x03, 0x93, 0x87, 0x00] = some (controller.block,
    [.opened 1#8, wr 0x00 0x00, .rd 0x40#7 0x00#8 (some 0x00#8), wr 0x00 0x10, wr 0xFE 0x65, wr 0x00 0x00,
     .delay .settleWake, wr 0x00 0x80, .resp .ok none]) := by decide +kernel
/-- P4, at 1743.861608 Hz. -/
theorem test_pwmConstruct_config : events start [0x10, 0x00, 0x40, 0x67, 0xF1, 0x37, 0x68] =
    some (.opened 0#8 :: z64 ++ [.closed, .resp (.error .configError) none]) := by decide +kernel
/-- P6, k = 4. -/
theorem test_pwmConstruct_nack : after (drawing start [true, true, true, false])
      [0x10, 0x00, 0x40, 0x03, 0x93, 0x87, 0x00] = some
    ({ Block.reset with
        ctlState := .closed
        devAddr := 0x40#7
        freq := 60
        prescale := 101#8
        lastStatus := .error .transferError },
     [.opened 0#8, wr 0x00 0x00, .rd 0x40#7 0x00#8 (some 0x00#8), wr 0x00 0x10, .wr 0x40#7 0xFE#8 0x65#8 .nack]
      ++ z64 ++ [.closed, .resp (.error .transferError) none]) := by decide +kernel
/-- P8. -/
theorem test_pwmSetTicks : events controller [0x11, 0x03, 0x01, 0x00, 0x00, 0xFF] =
    some [wr 0x12 0x00, wr 0x13 0x01, wr 0x14 0xFF, wr 0x15 0x00, .resp .ok none] := by decide +kernel
/-- P8. -/
theorem test_pwmSetTicks_channel : events controller [0x11, 0x10, 0x00, 0x00, 0x00, 0x00] =
    some [.resp (.error .invalidChannel) none] := by decide +kernel
/-- P9. -/
theorem test_pwmSetPulse : events controller [0x12, 0x01, 0x00, 0x19, 0xF0, 0xA0] =
    some [wr 0x0A 0x00, wr 0x0B 0x00, wr 0x0C 0xA2, wr 0x0D 0x01, .resp .ok none] := by decide +kernel
/-- P9: the most negative D6 value gives the ticks of 0.5 ms. -/
theorem test_pwmSetPulse_clamped : events controller [0x12, 0x00, 0x80, 0x00, 0x00, 0x00] =
    some [wr 0x06 0x00, wr 0x07 0x00, wr 0x08 0x7B, wr 0x09 0x00, .resp .ok none] := by decide +kernel
/-- P11. -/
theorem test_pwmStopAll : events controller [0x13] = some (z64 ++ [.resp .ok none]) := by decide +kernel
/-- P12. -/
theorem test_pwmClose : after controller [0x14] = some ({ controller.block with
    busOwner := .none, ctlState := .closed }, [.closed, .resp .ok none]) := by decide +kernel

/-- M1. -/
theorem test_mapConstruct : after controller [0x20, 0x00, 0x00, 0x1B, 0x77, 0x40, 0x00, 0x07, 0xA1, 0x20, 0x01,
    0x00, 0x16, 0xE3, 0x60, 0x00, 0x06, 0x1A, 0x80] = some (mapper.block,
    [wr 0x06 0x00, wr 0x07 0x00, wr 0x08 0xBA, wr 0x09 0x01, wr 0x0A 0x00, wr 0x0B 0x00, wr 0x0C 0x71, wr 0x0D 0x01,
     .resp .ok none]) := by decide +kernel
/-- M10: the sixth write is not acknowledged. -/
theorem test_mapConstruct_nack : events (drawing controller [true, true, true, true, true, false])
    [0x20, 0x00, 0x00, 0x1B, 0x77, 0x40, 0x00, 0x07, 0xA1, 0x20, 0x01, 0x00, 0x16, 0xE3, 0x60, 0x00, 0x06, 0x1A,
     0x80] = some ([wr 0x06 0x00, wr 0x07 0x00, wr 0x08 0xBA, wr 0x09 0x01, wr 0x0A 0x00,
      .wr 0x40#7 0x0B#8 0x00#8 .nack] ++ z64 ++ [.closed, .resp (.error .transferError) none]) := by decide +kernel
/-- X6. -/
theorem test_mapSetSteering : events mapper [0x21, 0xFF, 0xF0, 0xBD, 0xC0] =
    some [wr 0x06 0x00, wr 0x07 0x00, wr 0x08 0x3F, wr 0x09 0x01, .resp .ok none] := by decide +kernel
/-- M5. -/
theorem test_mapSetSteering_nack : events (drawing mapper [true, false]) [0x21, 0x00, 0x0F, 0x42, 0x40] =
    some [wr 0x06 0x00, .wr 0x40#7 0x07#8 0x00#8 .nack, .resp (.error .transferError) none] := by decide +kernel
/-- M4. -/
theorem test_mapSetThrottle : events mapper [0x22, 0xFF, 0xFC, 0x2F, 0x70] =
    some [wr 0x0A 0x00, wr 0x0B 0x00, wr 0x0C 0x58, wr 0x0D 0x01, .resp .ok none] := by decide +kernel
/-- M6, M11: accepted at 0.9 (0.9 - 0.4 = 0.5) even behind a closed controller. -/
theorem test_mapRecalCenter : after closed [0x23, 0x01, 0x00, 0x0D, 0xBB, 0xA0] = some ({ closed.block with
    calThrottle := { channel := 1#8, center := 9 / 10, half := 2 / 5 } }, [.resp .ok none]) := by decide +kernel
/-- M6: refused at 0.899999; R200: accepted also while the host holds a handle. -/
theorem test_mapRecalCenter_tests : after mapper [0x23, 0x01, 0x00, 0x0D, 0xBB, 0x9F] = some ({ mapper.block with
      lastStatus := .error .outOfRangeCalibration }, [.resp (.error .outOfRangeCalibration) none]) ∧
    after reopened [0x23, 0x01, 0x00, 0x0D, 0xBB, 0xA0] = some ({ reopened.block with
      calThrottle := { channel := 1#8, center := 9 / 10, half := 2 / 5 } }, [.resp .ok none]) := by decide +kernel
/-- M7, X4: throttle first. -/
theorem test_mapStop : events mapper [0x24] =
    some [wr 0x0A 0x00, wr 0x0B 0x00, wr 0x0C 0x71, wr 0x0D 0x01, wr 0x06 0x00, wr 0x07 0x00, wr 0x08 0xBA,
      wr 0x09 0x01, .resp .ok none] := by decide +kernel
/-- M8. -/
theorem test_mapShutdown : after mapper [0x25] = some ({ mapper.block with
      busOwner := .none, ctlState := .closed, mapState := .shutDown },
    [wr 0x0A 0x00, wr 0x0B 0x00, wr 0x0C 0x71, wr 0x0D 0x01, wr 0x06 0x00, wr 0x07 0x00, wr 0x08 0xBA, wr 0x09 0x01,
     .delay .settleNeutral] ++ z64 ++ [.closed, .resp .ok none]) := by decide +kernel
/-- M9 (a), the first three draws. -/
theorem test_mapShutdown_nack : events (drawing mapper [true, true, false, false]) [0x25] =
    some ([wr 0x0A 0x00, wr 0x0B 0x00, .wr 0x40#7 0x0C#8 0x71#8 .nack, .wr 0x40#7 0x06#8 0x00#8 .nack]
      ++ z64.drop 1 ++ [.closed, .resp (.error .transferError) none]) := by decide +kernel

/-- The trace of one step of a state. -/
def stepEvents (s : State) : Option (List Event) :=
  match step s with
  | .next t => some t.trace
  | .fault _ => none
  | .refused _ => none

/-- A state with a pending abort and a command waiting. -/
def pending (s : State) : State :=
  { s with
    block := { s.block with abortPending := true }
    inputs := [.command [0x13#8]] }

/-- A2 and A5. -/
theorem test_abort : stepEvents (pending controller) = some (z64 ++ [.closed, .abortDone .ok]) ∧
    stepEvents (pending hosted) = some [.abortDone .ok] := by decide +kernel
/-- Z1. -/
theorem test_reset : stepEvents { controller with inputs := [.reset] } = some [.reset] := by decide +kernel
/-- C1 of 90_conflicts.md, N1. -/
theorem test_prescale : prescaleOf 60 = 101 ∧ prescaleOf (1000 : Q) = 5 ∧
    prescaleValid Config.params (23795382 / 1000000) = false := by decide +kernel
/-- N4: the row 399.951171 and the row 1000. -/
theorem test_dutyTicks : dutyTicks (5 / 2) (399951171 / 1000000) = 4095 ∧ dutyTicks (1 / 2) 1000 = 2048 := by
  decide +kernel
/-- R103 for Wr(0x40, 0x06, 0x01): S 10000000 a 00000110 a 00000001 a P. -/
theorem test_writeFrame : writeFrame 0x40#7 0x06#8 0x01#8 ⟨.ack, .ack, .ack, 0#8⟩ =
    .start :: [true, false, false, false, false, false, false, false].map WireSym.master ++ .target false ::
      [false, false, false, false, false, true, true, false].map WireSym.master ++ .target false ::
      [false, false, false, false, false, false, false, true].map WireSym.master ++ [.target false, .stop] := by decide

/-! ## Witnesses: the hypotheses of the statements can be met -/

/-- DecodeEncodeRoundTrip, at the ends of the checked fields. -/
theorem witness_wellFormed : (Instr.pwmSetTicks 255#8 4095#16 0#16).WellFormed ∧
    (Instr.busWrite 0x7F#8 0xFF#8 0xFF#8).WellFormed ∧ (Instr.mapRecalCenter 1#8 0#32).WellFormed := by decide

/-- EncodeDecodeRoundTrip, StepRunsTheDecodedCommand. -/
theorem witness_decodes : (decode [0x23#8, 0x01#8, 0x00#8, 0x16#8, 0xE3#8, 0x60#8]).isOk = true ∧
    (decodeTableWord 48 0x23010016E360).isSome = true := by decide

/-- FrameDecodesExactlyWhenItMatchesItsRow: a frame of the row's length on either side of the test. -/
theorem witness_matches : (frame [0x23, 1, 0, 0, 0, 0]).length = Opcode.mapRecalCenter.frameLength ∧
    frameNumber (frame [0x23, 1, 0, 0, 0, 0]) &&& Opcode.mapRecalCenter.mask = Opcode.mapRecalCenter.pattern ∧
    frameNumber (frame [0x23, 2, 0, 0, 0, 0]) &&& Opcode.mapRecalCenter.mask ≠ Opcode.mapRecalCenter.pattern := by
  decide

/-- IllegalFramesHaveNoOtherEffect, each clause. -/
theorem witness_illegal : opcodeOf 0x13#8 = some .pwmStopAll ∧ [0x00#8].length + 1 ≠ Opcode.pwmStopAll.frameLength ∧
    ¬ (Instr.mapRecalCenter 2#8 0#32).WellFormed ∧
    (offerFrame mapper (frame [0x26])).block.abortPending = false ∧
    (offerFrame mapper (frame [0x26])).inputs = .command [0x26#8] :: [] ∧
    decode [0x26#8] = .error (.unknownOpcode 0x26#8) := by decide

/-- D6FieldsDenoteExactMillionths, at the largest literal. -/
theorem witness_d6 : assembleD6 (.num (2147483647 / 1000000)) = some 0x7FFFFFFF#32 := by decide +kernel

/-- StepRunsTheDecodedCommand and IdleBlockWaits. -/
theorem witness_step : (offerFrame mapper (frame [0x24])).block.abortPending = false ∧
    (offerFrame mapper (frame [0x24])).inputs = .command [0x24#8] :: [] ∧ decode [0x24#8] = .ok .mapStop ∧
    mapper.inputs = [] := by decide

/-- WireFramesFollowTheirRules: an answer that is Ack, one that fails at each slot, and a state that meets one. -/
theorem witness_replies : (Reply.mk .ack .ack .ack 0xFF#8).ok = true ∧ (Reply.mk .nack .ack .ack 0#8).ok = false ∧
    (Reply.mk .ack .timeout .ack 0#8).ok = false ∧ (Reply.mk .ack .ack .nack 0#8).ok = false ∧
    ((drawing hosted [false]).env.nextReply 0x40#7 0x06#8).1.ok = false ∧
    (hosted.env.nextReply 0x40#7 0x06#8).1.ok = true := by decide

/-- StatusCodesAreDistinct. -/
theorem witness_codes : Status.code (.error .illegalCommand) = Status.code (.error .illegalCommand) := by decide

/-- PrescaleRoundsAndDoesNotIncrease, PrescaleValidOnItsInterval, DutyTicksSaturate, TicksRoundTripWithinHalfATick,
TicksDoNotDecrease, PulseIsClampedToItsRange: at the ends of the ranges. -/
theorem witness_numbers : (0 : Q) < 1 / 1000000 ∧ (1 / 1000000 : Q) ≤ 1743861607 / 1000000 ∧
    Config.params.prescaleMin = 3#8 ∧ Config.params.prescaleMax = 255#8 ∧
    prescaleValid Config.params (390625 / 224) = true ∧ (399951171 / 1000000 : Q) < 204775 / 512 ∧
    (499999 / 1000000 : Q) < 1 / 2 ∧ (5 / 2 : Q) < 2500001 / 1000000 ∧ (1 / 2 : Q) ≤ 5 / 2 := by decide +kernel

/-- BaseRegisterNeverOverflows, SetTicks, SetPulse, MapConstruct: the channels where the clauses meet. -/
theorem witness_channels : (15#8 : Byte).toNat ≤ 15 ∧ 15 < (16#8 : Byte).toNat := by decide

/-- CommandIsClamped. -/
theorem witness_commands : clampCommand (d6Value 2000000#32) = clampCommand (d6Value 1000000#32) ∧ (-2 : Q) < -1 ∧
    (1 : Q) < 2 ∧ (-1 : Q) ≤ 1 := by decide +kernel

/-- MapPulseStaysInTheRecordsRange: a record that touches both bounds (N7). -/
theorem witness_record : Config.params.safeMinMs = 1 / 2 ∧ Config.params.safeMaxMs = 5 / 2 ∧
    calibrationValid Config.params (3 / 2) 1 = true := by decide +kernel

/-- BusOpenClaimsAFreePort: a held handle; the first port that does not exist; the last that does, and the first. -/
theorem witness_busOpen : hosted.block.busOwner ≠ .none ∧ start.params.busCount ≤ (2#8 : Byte).toNat ∧
    start.block.busOwner = .none ∧ (1#8 : Byte).toNat < start.params.busCount ∧
    (0#8 : Byte).toNat < { start.params with busCount := 1 }.busCount ∧
    start.env.nextOpen.1 = true := by decide

/-- The owner and state tests of the BUS and PWM statements, each side. -/
theorem witness_states : hosted.block.busOwner = .host ∧ controller.block.busOwner ≠ .host ∧
    controller.block.busOwner = .pwc ∧ start.block.busOwner ≠ .pwc ∧ controller.block.ctlState = .awake ∧
    start.block.ctlState = .uninitialized ∧ start.block.ctlState ≠ .awake ∧
    controller.block.ctlState ≠ .uninitialized ∧ controller.block.mapState = .unconstructed := by decide

/-- ConstructProgramsTheTarget: an open that the environment refuses, and both sides of the frequency test. -/
theorem witness_construct : { start.env with opens := [false] }.nextOpen.1 = false ∧
    prescaleValid start.params (d6Value 1743861608#32) = false ∧
    prescaleValid start.params (d6Value 1743861607#32) = true := by decide +kernel

/-- The grants of the completion statements: T0 grants every transaction to its address. -/
theorem witness_grants (n : Nat) : mapper.env.grants mapper.block.devAddr n ∧
    start.env.grants (devOf 0x40#8) n ∧ controller.env.grants controller.block.devAddr n :=
  ⟨⟨fun r h => by simp [mapper, controller, start] at h, .inr ⟨0x00#8, [], rfl⟩⟩,
   ⟨fun r h => by simp [start] at h, .inr ⟨0x00#8, [], rfl⟩⟩,
   ⟨fun r h => by simp [controller, start] at h, .inr ⟨0x00#8, [], rfl⟩⟩⟩

/-- MapConstruct: a valid and an invalid pair of records. -/
theorem witness_mapConstruct : (calibrationValid controller.params (d6Value 1800000#32) (d6Value 500000#32) = true ∧
    calibrationValid controller.params (d6Value 1500000#32) (d6Value 400000#32) = true) ∧
    calibrationValid controller.params (d6Value 2100000#32) (d6Value 500000#32) = false := by decide +kernel

/-- The Mapper statements: an active Mapper whose controller is awake, or closed behind it, with its channels. -/
theorem witness_mapper : mapper.block.mapState = .active ∧ mapper.block.ctlState = .awake ∧
    mapper.block.busOwner = .pwc ∧ mapperReady mapper = true ∧ closed.block.mapState = .active ∧
    closed.block.ctlState ≠ .awake ∧ controller.block.mapState ≠ .active ∧
    { mapper.block with mapState := .shutDown }.mapState = .shutDown := by decide
theorem witness_mapper_channels : ∀ a, (mapper.block.cal a).channel.toNat ≤ 15 := by
  intro a; cases a <;> decide

/-- RecalibrationReplacesTheCentreOnly: a host-owned handle behind an active Mapper, both sides of the range test. -/
theorem witness_recal : reopened.block.mapState = .active ∧ reopened.block.busOwner = .host ∧
    calibrationValid mapper.params (d6Value 2000000#32) (mapper.block.cal .steering).half = true ∧
    calibrationValid mapper.params (d6Value 2000001#32) (mapper.block.cal .steering).half = false := by decide +kernel

/-- SecondStopLeavesTheSameBytes, CompletedTicksAreAccepted, CompletedStopAllLeavesZeroes: commands that answer OK,
MAP_STOP twice. -/
theorem witness_completed :
    (match exec .mapStop mapper with
      | .next t => (match exec .mapStop t with
        | .next u => t.block.lastStatus == .ok && u.block.lastStatus == .ok
        | _ => false)
      | _ => false) = true ∧
    (match exec (.pwmSetTicks 15#8 4095#16 1#16) controller with
      | .next t => t.block.lastStatus == .ok
      | _ => false) = true ∧
    (match exec .pwmStopAll controller with
      | .next t => t.block.lastStatus == .ok
      | _ => false) = true := by decide +kernel

/-- SetAxisDependsOnNothingElse: two ready states that differ elsewhere and agree on what the command reads. -/
theorem witness_same_axis : mapperReady mapper = true ∧
    mapperReady { mapper with block := { mapper.block with busIndex := 0#8 } } = true ∧
    mapper ≠ { mapper with block := { mapper.block with busIndex := 0#8 } } := by decide +kernel

/-- FrequencyIsFixedForLife, ControllerTransitionsAreTheListedOnes, OnlyTheOwnerReachesTheBus,
PwcWritesOnlyMappedRegisters, CommandsLeaveOtherBytesAlone: a step that meets their hypotheses. -/
theorem witness_frames : Instr.pwmClose.opcode ≠ .pwmConstruct ∧ isRaw .pwmClose = false ∧
    isRaw .busClose = true ∧ hosted.block.busOwner = .host ∧ controller.block.busOwner ≠ .host ∧
    (match exec .pwmClose controller with
      | .next t => decide (t.block.ctlState ≠ controller.block.ctlState)
      | _ => false) = true ∧
    location 1#8 0x40#7 0x00#8 ∉ storedLocations (.pwmSetTicks 15#8 0#16 0#16) controller := by decide +kernel

/-- AbortServiceFollowsItsRule: the five cases. -/
theorem witness_abort : (pending mapper).block.abortPending = true ∧ (pending mapper).block.abortTaken = false ∧
    (pending mapper).block.mapState = .active ∧ (pending controller).block.mapState ≠ .active ∧
    (pending controller).block.busOwner = .pwc ∧ (pending hosted).block.busOwner ≠ .pwc ∧
    (pending closed).block.ctlState ≠ .awake ∧
    { (pending mapper).block with abortTaken := true }.abortTaken = true := by decide

/-- AbortLatchIsClearedOnlyByServiceOrReset, ShutdownBodyRunsAtMostOnce, ResetIsTheOnlyWayBack: inputs that meet
their hypotheses. -/
theorem witness_inputs : (pending mapper).block.abortPending = true ∧
    (match step (pending mapper) with
      | .next t => t.block.abortTaken
      | _ => false) = true ∧ { mapper with inputs := [.abort] }.inputs = .abort :: [] ∧
    { closed with inputs := [.reset] }.inputs = .reset :: [] ∧ closed.block.ctlState = .closed ∧
    closed.block.abortPending = false ∧
    (match step { closed with inputs := [.reset] } with
      | .next t => decide (t.block.ctlState ≠ .closed)
      | _ => false) = true ∧
    (match step (offerFrame mapper (frame [0x25])) with
      | .next t => decide (Event.delay .settleNeutral ∈ t.trace)
      | _ => false) = true := by decide +kernel

/-- FaultsOnlyOutsideTheSpec: each fault is reached. -/
theorem witness_faults : step { mapper with inputs := [.resetDuring [0x13#8]] } = .fault .resetInProgress ∧
    step { mapper with inputs := [.foreignMaster] } = .fault .secondMaster := ⟨rfl, rfl⟩

/-- OtherSideIsKeptOutWhileTheHandleIsHeld: a handle of the host before any controller, and behind an active and a
shut-down Mapper (witness_states has the controller's handle). -/
theorem witness_ownership : Inv hosted ∧ hosted.block.busOwner = .host ∧ hosted.block.ctlState = .uninitialized ∧
    hosted.block.mapState ≠ .shutDown ∧ Inv reopened ∧ reopened.block.busOwner = .host ∧
    reopened.block.ctlState ≠ .uninitialized ∧
    Inv { reopened with block := { reopened.block with mapState := .shutDown } } := by
  refine ⟨⟨?_, ?_, ?_, ?_, ?_, ?_, ?_, ?_, ?_, ?_⟩, ?_, ?_, ?_, ⟨?_, ?_, ?_, ?_, ?_, ?_, ?_, ?_, ?_, ?_⟩, ?_, ?_,
    ⟨?_, ?_, ?_, ?_, ?_, ?_, ?_, ?_, ?_, ?_⟩⟩
  all_goals first | decide | exact fun h => absurd rfl h | (intro _ a; cases a <;> decide +kernel)

/-- StepKeepsTheInvariant and the statements with the invariant as a premise. -/
theorem witness_invariant : Inv mapper where
  ports := by decide
  memory := by decide
  device := by decide
  notSleeping := by decide
  owned := by decide
  port := by decide
  programmed := by decide +kernel
  calibrated := by intro _ a; cases a <;> decide +kernel
  active := by decide
  shut := by decide

end Sys2Proof.Tests
end

section
/-! The family of 20_memory.md: one register transaction, said through what `MemWrite` and `MemRead` can do. -/

namespace Sys2Proof.Machine

/-- Settles O21 (R64, R65): the answer drawn decides between the two ends of each transaction. -/
theorem transactionsAreDoneOnce : Obligations.TransactionsAreDoneOnce := by
  unfold Obligations.TransactionsAreDoneOnce
  constructor
  · intro dev reg v s
    obtain ⟨t, produced, wire, result, -⟩ := memWrite_cases dev reg v s
    refine ⟨t, produced.block, wire, ?_⟩
    have trace := produced.trace
    split
    · next acked => exact ⟨by rwa [if_pos acked] at result, by rwa [if_pos acked] at trace⟩
    · next failed => exact ⟨by rwa [if_neg failed] at result, by rwa [if_neg failed] at trace⟩
  · intro dev reg s
    obtain ⟨t, produced, wire, result, -⟩ := memRead_cases dev reg s
    refine ⟨t, produced.block, wire, ?_⟩
    have trace := produced.trace
    split
    · next acked => exact ⟨by rwa [if_pos acked] at result, by rwa [if_pos acked] at trace⟩
    · next failed => exact ⟨by rwa [if_neg failed] at result, by rwa [if_neg failed] at trace⟩

end Sys2Proof.Machine
end

section
/-! The family of 30_encoding.md: the status codes, the D6 number format, the frames the decoder refuses, and the
one response of every command. -/

namespace Sys2Proof.Machine

/-! ## Status codes (R100) -/

/-- The eight statuses, in the order of the table of R100. -/
def allStatuses : List Status :=
  [.ok, .error .busUnavailable, .error .transferError, .error .invalidChannel,
   .error .outOfRangeCalibration, .error .configError, .error .invalidState, .error .illegalCommand]

/-- The status a byte stands for, if any. -/
def statusOf (b : Byte) : Option Status := allStatuses.find? fun st => st.code == b

theorem statusOf_code (st : Status) : statusOf st.code = some st := by
  cases st with
  | ok => rfl
  | error e => cases e <;> rfl

theorem code_lt_eight (st : Status) : st.code.toNat < 8 := by
  cases st with
  | ok => decide
  | error e => cases e <;> decide

/-- Settles O9 (R100): the table can be read backwards, so no two statuses share a code. -/
theorem statusCodesAreDistinct : Obligations.StatusCodesAreDistinct := by
  unfold Obligations.StatusCodesAreDistinct
  refine ⟨rfl, rfl, fun st st' same => ?_, code_lt_eight⟩
  have := statusOf_code st
  rw [same, statusOf_code] at this
  exact (Option.some.inj this).symm

/-! ## D6 numbers (R96) -/

/-- A byte appended to a field is its lowest digit in base 256 (R90). -/
theorem append_byte_toNat {w : Nat} (x : BitVec w) (b : Byte) : (x ++ b).toNat = 256 * x.toNat + b.toNat := by
  rw [BitVec.toNat_append, ← Nat.shiftLeft_add_eq_or_of_lt b.isLt, Nat.shiftLeft_eq]
  omega

theorem be32_toNat (b3 b2 b1 b0 : Byte) : (be32 b3 b2 b1 b0).toNat =
    16777216 * b3.toNat + 65536 * b2.toNat + 256 * b1.toNat + b0.toNat := by
  simp only [be32, append_byte_toNat]
  omega

/-- The top bit of the first byte is the sign. -/
theorem be32_toInt (b3 b2 b1 b0 : Byte) : (be32 b3 b2 b1 b0).toInt =
    (if 128 ≤ b3.toNat then -4294967296 else 0) + 16777216 * (b3.toNat : Int) + 65536 * (b2.toNat : Int)
      + 256 * (b1.toNat : Int) + (b0.toNat : Int) := by
  have h2 := b2.isLt
  have h1 := b1.isLt
  have h0 := b0.isLt
  rw [BitVec.toInt_eq_toNat_cond, be32_toNat]
  split <;> split <;> omega

theorem d6Value_eq_iff (n : D6) (q : Q) : d6Value n = q ↔ ((n.toInt : Int) : Q) = q * Config.d6Scale :=
  div_eq_iff (by norm_num [Config.d6Scale])

/-- A 32-bit field holds every integer of its signed range. -/
theorem toInt_ofInt_of_mem_range {k : Int} (low : -2147483648 ≤ k) (high : k ≤ 2147483647) :
    (BitVec.ofInt 32 k).toInt = k :=
  BitVec.toInt_ofInt_eq_self (by decide) (by omega) (by omega)

/-- R101: the assembler gives a literal the one field whose value it is, and refuses a literal that has none. -/
theorem assembleD6_num_eq_some_iff (q : Q) (n : D6) : assembleD6 (.num q) = some n ↔ d6Value n = q := by
  rw [d6Value_eq_iff]
  constructor
  · intro assembled
    simp only [assembleD6, Option.ite_none_right_eq_some, Option.some.injEq] at assembled
    obtain ⟨⟨integral, low, high⟩, rfl⟩ := assembled
    rw [toInt_ofInt_of_mem_range low high, Rat.coe_int_num_of_den_eq_one integral]
  · intro value
    have low := BitVec.le_toInt n
    have high := BitVec.toInt_lt (x := n)
    have fits : -2147483648 ≤ n.toInt ∧ n.toInt ≤ 2147483647 := by omega
    simp [assembleD6, ← value, fits]

/-- Settles O6 (R96): every clause but the first reads the assembler through its inversion lemma. -/
theorem d6FieldsDenoteExactMillionths : Obligations.D6FieldsDenoteExactMillionths := by
  unfold Obligations.D6FieldsDenoteExactMillionths
  refine ⟨fun b3 b2 b1 b0 => ?_, fun q n => (assembleD6_num_eq_some_iff q n).mp, fun k low high => ?_,
    fun n => (assembleD6_num_eq_some_iff _ n).mpr rfl⟩
  · rw [d6Value, be32_toInt, Config.d6Scale]
  · have value : d6Value (BitVec.ofInt 32 k) = (k : Q) / 1000000 := by
      rw [d6Value, toInt_ofInt_of_mem_range (by omega) (by omega), Config.d6Scale]
    exact ⟨_, (assembleD6_num_eq_some_iff _ _).mpr value, value⟩

/-! ## Frames the decoder refuses (R94, R95) -/

/-- The gaps between the three groups of opcodes, and everything above them (R93). -/
theorem opcodeOf_unassigned {op : Byte}
    (gap : op.toNat = 0 ∨ (0x05 ≤ op.toNat ∧ op.toNat ≤ 0x0F) ∨ (0x15 ≤ op.toNat ∧ op.toNat ≤ 0x1F) ∨
      0x26 ≤ op.toNat) : opcodeOf op = none := by
  cases found : opcodeOf op with
  | none => rfl
  | some o =>
    rw [code_of_opcodeOf found] at gap
    cases o <;> exact absurd gap (by decide)

@[simp] theorem opcodeOf_code (o : Opcode) : opcodeOf o.code = some o := by
  cases o <;> rfl

/-- The operand bytes the encoder writes are read back as the command they came from. -/
theorem operandsOf_encode (i : Instr) : operandsOf i.opcode (encode i).tail = some i := by
  cases i <;> simp [Instr.opcode, encode, operandsOf, bytes32, bytes16, be32_of_bytes, be16_of_bytes]

/-- The decoder on an encoder's frame: only the field test of R92 is left to fail. -/
theorem decode_encode (i : Instr) :
    decode (encode i) = if i.wellFormed then .ok i else .error (.illegalField i.opcode) := by
  have frame : encode i = i.opcode.code :: (encode i).tail := rfl
  rw [frame]
  simp only [decode, opcodeOf_code, operandsOf_encode]

theorem operandsOf_wrong_length {o : Opcode} {operands : List Byte} (wrong : operands.length + 1 ≠ o.frameLength) :
    operandsOf o operands = none := by
  cases read : operandsOf o operands with
  | none => rfl
  | some i =>
    obtain ⟨-, -, length⟩ := operandsOf_inv read
    exact absurd length wrong

/-- R95: the step of an idle block whose next input is a frame that does not decode. -/
theorem step_undecodable {s : State} {frame : List Byte} {rest : List Input} {e : DecodeError}
    (idle : s.block.abortPending = false) (offered : s.inputs = .command frame :: rest)
    (illegal : decode frame = .error e) :
    step s = .next (failWith .illegalCommand { s with inputs := rest }) := by
  simp only [step, fetch, idle, offered, illegal, refuseFrame, Bool.false_eq_true, if_false]

/-- Settles O5 (R95): which frames do not decode, and the answer to them. -/
theorem illegalFramesHaveNoOtherEffect : Obligations.IllegalFramesHaveNoOtherEffect := by
  unfold Obligations.IllegalFramesHaveNoOtherEffect
  refine ⟨fun op operands gap => ?_, rfl, fun op o operands found wrong => ?_, fun i illFormed => ?_,
    fun s frame rest e idle offered illegal => ?_⟩
  · simp only [decode, opcodeOf_unassigned gap]
  · exact ⟨.wrongLength o (operands.length + 1), by simp only [decode, found, operandsOf_wrong_length wrong]⟩
  · rw [decode_encode, if_neg illFormed]
  · exact ⟨_, step_undecodable idle offered illegal, rfl, rfl, rfl, rfl, rfl, rfl, rfl⟩

/-! ## Procedures answer nobody (R99)

No invariant is assumed: in any state whatever, what a command does before its response emits no response. -/

/-- From s to t the trace grew, and by no response. -/
def Unanswered (s t : State) : Prop :=
  ∃ evs, t.trace = s.trace ++ evs ∧ ∀ e ∈ evs, e.isResponse = false

/-- The state a procedure ended in, by return or by raise. -/
def Ran.state {α : Type} : Ran α → State
  | .done _ s => s
  | .raised _ s => s

/-- An update that does not touch the trace. -/
theorem Unanswered.of_trace_eq {s t : State} (same : t.trace = s.trace) : Unanswered s t :=
  ⟨[], by simp [same], by simp⟩

theorem Unanswered.refl (s : State) : Unanswered s s := .of_trace_eq rfl

theorem Unanswered.trans {s t u : State} (first : Unanswered s t) (second : Unanswered t u) : Unanswered s u := by
  obtain ⟨e₁, trace₁, silent₁⟩ := first
  obtain ⟨e₂, trace₂, silent₂⟩ := second
  refine ⟨e₁ ++ e₂, by rw [trace₂, trace₁, List.append_assoc], fun e mem => ?_⟩
  exact (List.mem_append.mp mem).elim (silent₁ e) (silent₂ e)

/-- One event that is no response. -/
theorem Unanswered.of_event {s t : State} (e : Event) (grown : t.trace = s.trace ++ [e])
    (silent : e.isResponse = false) : Unanswered s t :=
  ⟨[e], grown, by simpa using silent⟩

/-! An assignment to a field of the block leaves the trace alone. -/

theorem Unanswered.setCtl {s t : State} (before : Unanswered s t) (c : CtlState) : Unanswered s (t.setCtl c) :=
  before.trans (.of_trace_eq (setCtl_trace t c))

theorem Unanswered.setMap {s t : State} (before : Unanswered s t) (m : MapState) : Unanswered s (t.setMap m) :=
  before.trans (.of_trace_eq (setMap_trace t m))

theorem Unanswered.setCal {s t : State} (before : Unanswered s t) (a : Axis) (k : Cal) :
    Unanswered s (t.setCal a k) := before.trans (.of_trace_eq (setCal_trace t a k))

theorem Unanswered.setFreq {s t : State} (before : Unanswered s t) (f : Q) : Unanswered s (t.setFreq f) :=
  before.trans (.of_trace_eq (setFreq_trace t f))

theorem Unanswered.setDevAddr {s t : State} (before : Unanswered s t) (d : DevAddr) :
    Unanswered s (t.setDevAddr d) := before.trans (.of_trace_eq (setDevAddr_trace t d))

theorem Unanswered.busClose {s t : State} (before : Unanswered s t) : Unanswered s (busClose t) :=
  before.trans (.of_event .closed (busClose_trace t) rfl)

theorem Unanswered.wait {s t : State} (before : Unanswered s t) (p : DelayName) : Unanswered s (wait p t) :=
  before.trans (.of_event (.delay p) (wait_trace t p) rfl)

/-- After a raise nothing more happens, so a sequence answers nobody if its parts do not. -/
theorem Unanswered.andThen {α β : Type} {r : Ran α} {next : α → State → Ran β} {s : State}
    (first : Unanswered s r.state) (second : ∀ a t, Unanswered t (next a t).state) :
    Unanswered s (r.andThen next).state := by
  cases r with
  | done a t => exact first.trans (second a t)
  | raised e t => exact first

theorem unanswered_memWrite (dev : DevAddr) (reg v : Byte) (s : State) :
    Unanswered s (memWrite dev reg v s).state := by
  obtain ⟨t, produced, -, result, -⟩ := memWrite_cases dev reg v s
  have ended : (memWrite dev reg v s).state = t := by rw [result]; split <;> rfl
  exact .of_event _ (ended ▸ produced.trace) rfl

theorem unanswered_memRead (dev : DevAddr) (reg : Byte) (s : State) :
    Unanswered s (memRead dev reg s).state := by
  obtain ⟨t, produced, -, result, -⟩ := memRead_cases dev reg s
  have ended : (memRead dev reg s).state = t := by rw [result]; split <;> rfl
  exact .of_event _ (ended ▸ produced.trace) rfl

theorem unanswered_busOpen (b : Byte) (who : Owner) (s : State) : Unanswered s (busOpen b who s).state := by
  obtain ⟨-, result⟩ | ⟨-, -, result⟩ := busOpen_cases b who s
  · rw [result]
    exact .of_event (.openFail b) rfl rfl
  · rw [result]
    split
    · exact .of_event (.opened b) rfl rfl
    · exact .of_event (.openFail b) rfl rfl

theorem unanswered_writeAll (dev : DevAddr) (ws : List (Byte × Byte)) (s : State) :
    Unanswered s (writeAll dev ws s).state := by
  induction ws generalizing s with
  | nil => exact .refl s
  | cons w rest ih => exact (unanswered_memWrite dev w.1 w.2 s).andThen fun _ t => ih t

theorem ignoreErrors_eq_state (r : Ran Unit) : ignoreErrors r = r.state := by
  cases r <;> rfl

theorem unanswered_zeroIgnoring (dev : DevAddr) (regs : List Byte) (s : State) :
    Unanswered s (zeroIgnoring dev regs s) := by
  induction regs generalizing s with
  | nil => exact .refl s
  | cons reg rest ih =>
    have attempt := unanswered_memWrite dev reg 0x00#8 s
    rw [← ignoreErrors_eq_state] at attempt
    exact attempt.trans (ih _)

theorem unanswered_cleanup (s : State) : Unanswered s (cleanup s) := by
  unfold cleanup
  split
  · exact (unanswered_zeroIgnoring _ _ s).busClose.setCtl .closed
  · exact .refl s

theorem unanswered_setChannelTicks (c : Byte) (on off : Tick) (s : State) :
    Unanswered s (setChannelTicks c on off s).state := by
  unfold setChannelTicks
  split
  · exact .refl s
  · exact unanswered_writeAll _ _ s

theorem unanswered_setPulseWidth (c : Byte) (p : Q) (s : State) : Unanswered s (setPulseWidth c p s).state :=
  unanswered_setChannelTicks c _ _ s

theorem unanswered_setAxis (a : Axis) (x : Q) (s : State) : Unanswered s (setAxis a x s).state :=
  unanswered_setPulseWidth _ _ s

theorem unanswered_stopAxes (s : State) : Unanswered s (stopAxes s).state :=
  (unanswered_setAxis .throttle 0 s).andThen fun _ t => unanswered_setAxis .steering 0 t

theorem unanswered_stopChannels (cs : List Byte) (s : State) : Unanswered s (stopChannels cs s).state := by
  induction cs generalizing s with
  | nil => exact .refl s
  | cons c rest ih => exact (unanswered_setChannelTicks c _ _ s).andThen fun _ t => ih t

theorem unanswered_stopAllChannels (s : State) : Unanswered s (stopAllChannels s).state :=
  unanswered_stopChannels _ s

@[simp] theorem refused_isResponse (e : Event) : e.refused.isResponse = e.isResponse := by
  cases e <;> rfl

/-- A cut sequence answers nobody if the whole sequence does not. -/
theorem isResponse_of_mem_cutAt {evs : List Event} {n : Nat} {e : Event}
    (silent : ∀ e ∈ evs, e.isResponse = false) (mem : e ∈ cutAt evs n) : e.isResponse = false := by
  obtain before | failed := List.mem_append.mp mem
  · exact silent e (List.mem_of_mem_take before)
  · obtain ⟨attempted, at_cut, rfl⟩ := List.mem_map.mp failed
    rw [refused_isResponse]
    exact silent attempted (List.mem_of_mem_drop (List.mem_of_mem_take at_cut))

theorem unanswered_initSequence (s : State) : Unanswered s (initSequence s).state := by
  obtain ⟨m, n, t, -, -, produced, result, -⟩ := initSequence_cases s
  have ended : (initSequence s).state = t := by rw [result]; split <;> rfl
  have silent : ∀ e ∈ initEvents s.block.devAddr s.params s.block.prescale m, e.isResponse = false := by
    simp [initEvents, Event.isResponse]
  exact ⟨_, ended ▸ produced.trace, fun e mem => isResponse_of_mem_cutAt silent mem⟩

theorem unanswered_shutdownSequence (s : State) : Unanswered s (shutdownSequence s).state :=
  (unanswered_stopAxes s).andThen fun _ t =>
    ((Unanswered.refl t).wait .settleNeutral).trans (unanswered_stopAllChannels _)

theorem unanswered_shutdownBody (s : State) : Unanswered s (shutdownBody s).2 := by
  by_cases awake : s.block.ctlState = .awake
  · have sequence : Unanswered s (shutdownSequence (s.setMap .shutDown)).state :=
      ((Unanswered.refl s).setMap .shutDown).trans (unanswered_shutdownSequence _)
    simp only [shutdownBody, setMap_block, awake, ne_eq, not_true_eq_false, if_false]
    cases ran : shutdownSequence (s.setMap .shutDown) with
    | done _ t =>
      rw [ran] at sequence
      exact sequence.busClose.setCtl .closed
    | raised e t =>
      rw [ran] at sequence
      exact sequence.trans (unanswered_cleanup t)
  · rw [shutdownBody_closed awake]
    exact (Unanswered.refl s).setMap .shutDown

/-! ## The one response of a command (R99) -/

/-- From s the machine came to t by answering last, with status st and perhaps a data byte, and nothing it did
before that was a response. -/
def RespondsLast (s t : State) (st : Status) (data : Option Byte) : Prop :=
  ∃ u, Unanswered s u ∧ t = u.respond st data

theorem respondsLast_respond {s u : State} (before : Unanswered s u) (st : Status) (data : Option Byte) :
    RespondsLast s (u.respond st data) st data := ⟨u, before, rfl⟩

/-- A response with the status alone: the only one a command other than BUS_READ gives. -/
def RespondsStatus (s t : State) : Prop := ∃ st, RespondsLast s t st none

theorem respondsStatus_respond {s u : State} (before : Unanswered s u) (st : Status) :
    RespondsStatus s (u.respond st none) := ⟨st, respondsLast_respond before st none⟩

theorem respondsStatus_failWith {s u : State} (e : Error) (before : Unanswered s u) :
    RespondsStatus s (failWith e u) := respondsStatus_respond before (.error e)

theorem respondsStatus_failFatally {s u : State} (e : Error) (before : Unanswered s u) :
    RespondsStatus s (failFatally e u) := respondsStatus_respond (before.trans (unanswered_cleanup u)) (.error e)

theorem respondsStatus_answer {s : State} {r : Ran Unit} (before : Unanswered s r.state) :
    RespondsStatus s (answer r) := by
  cases r with
  | done _ t => exact respondsStatus_respond before .ok
  | raised e t => exact respondsStatus_failWith e before

theorem respondsStatus_answerFatally {s : State} {r : Ran Unit} (before : Unanswered s r.state) :
    RespondsStatus s (answerFatally r) := by
  cases r with
  | done _ t => exact respondsStatus_respond before .ok
  | raised e t => exact respondsStatus_failFatally e before

/-- A command that tests the state first: refused at once, or carried out. -/
theorem respondsStatus_ite {s t : State} {c : Prop} [Decidable c] (e : Error) (carried : RespondsStatus s t) :
    RespondsStatus s (if c then failWith e s else t) := by
  split
  · exact respondsStatus_failWith e (.refl s)
  · exact carried

/-- The same test with its branches the other way round. -/
theorem respondsStatus_ite_not {s t : State} {c : Prop} [Decidable c] (e : Error) (carried : RespondsStatus s t) :
    RespondsStatus s (if c then t else failWith e s) := by
  split
  · exact carried
  · exact respondsStatus_failWith e (.refl s)

/-- BUS_READ: a byte exactly when the transaction was acknowledged (R136). -/
theorem execBusRead_responds (addr reg : Byte) (s : State) :
    ∃ t st data, execBusRead addr reg s = .next t ∧ RespondsLast s t st data ∧ (data.isSome = true ↔ st = .ok) := by
  unfold execBusRead
  split
  · exact ⟨_, .error .invalidState, none, rfl, respondsLast_respond (.refl s) _ _, by simp⟩
  · have before := unanswered_memRead (devOf addr) reg s
    cases ran : memRead (devOf addr) reg s with
    | done v t =>
      rw [ran] at before
      exact ⟨_, .ok, some v, rfl, respondsLast_respond before _ _, by simp⟩
    | raised e t =>
      rw [ran] at before
      exact ⟨_, .error e, none, rfl, respondsLast_respond before _ _, by simp⟩

/-- R171, once the port is claimed. -/
theorem respondsStatus_constructOpened {s u : State} (addr : Byte) (freq : D6) (before : Unanswered s u) :
    RespondsStatus s (constructOpened addr freq u) := by
  have addressed := before.setDevAddr (devOf addr)
  simp only [constructOpened]
  split
  · exact respondsStatus_answerFatally ((addressed.setFreq _).trans (unanswered_initSequence _))
  · exact respondsStatus_failFatally _ addressed

theorem execPwmConstruct_responds (bus addr : Byte) (freq : D6) (s : State) :
    ∃ t, execPwmConstruct bus addr freq s = .next t ∧ RespondsStatus s t := by
  refine ⟨_, rfl, respondsStatus_ite _ ?_⟩
  have before := unanswered_busOpen bus .pwc s
  cases ran : busOpen bus .pwc s with
  | done _ t =>
    rw [ran] at before
    exact respondsStatus_constructOpened addr freq before
  | raised e t =>
    rw [ran] at before
    exact respondsStatus_failWith e before

theorem execMapConstruct_responds (sCh : Byte) (sCenter sHalf : D6) (tCh : Byte) (tCenter tHalf : D6) (s : State) :
    ∃ t, execMapConstruct sCh sCenter sHalf tCh tCenter tHalf s = .next t ∧ RespondsStatus s t := by
  refine ⟨_, rfl, respondsStatus_ite _ (respondsStatus_ite _ (respondsStatus_ite _ ?_))⟩
  have recorded := ((Unanswered.refl s).setCal .steering ⟨sCh, d6Value sCenter, d6Value sHalf⟩).setCal .throttle
    ⟨tCh, d6Value tCenter, d6Value tHalf⟩
  refine respondsStatus_answerFatally ((recorded.trans (unanswered_setAxis .steering 0 _)).andThen fun _ t => ?_)
  exact (unanswered_setAxis .throttle 0 t).andThen fun _ u => (Unanswered.refl u).setMap .active

theorem execMapShutdown_responds (s : State) : ∃ t, execMapShutdown s = .next t ∧ RespondsStatus s t := by
  refine ⟨_, rfl, ?_⟩
  split
  · exact respondsStatus_respond (.refl s) _
  · exact respondsStatus_failWith _ (.refl s)
  · exact respondsStatus_respond (unanswered_shutdownBody s) _

/-- Every command but BUS_READ: in any state, one response, with the status alone, last. -/
theorem exec_respondsStatus (i : Instr) (s : State) (other : i.opcode ≠ .busRead) :
    ∃ t, exec i s = .next t ∧ RespondsStatus s t := by
  cases i with
  | busRead => exact absurd rfl other
  | busOpen => exact ⟨_, rfl, respondsStatus_answer (unanswered_busOpen _ _ s)⟩
  | busWrite => exact ⟨_, rfl, respondsStatus_ite _ (respondsStatus_answer (unanswered_memWrite _ _ _ s))⟩
  | busClose => exact ⟨_, rfl, respondsStatus_ite _ (respondsStatus_respond (Unanswered.refl s).busClose _)⟩
  | pwmConstruct => exact execPwmConstruct_responds _ _ _ s
  | pwmSetTicks => exact ⟨_, rfl, respondsStatus_ite _ (respondsStatus_answer (unanswered_setChannelTicks _ _ _ s))⟩
  | pwmSetPulse => exact ⟨_, rfl, respondsStatus_ite _ (respondsStatus_answer (unanswered_setPulseWidth _ _ s))⟩
  | pwmStopAll => exact ⟨_, rfl, respondsStatus_ite _ (respondsStatus_answer (unanswered_stopAllChannels s))⟩
  | pwmClose =>
    exact ⟨_, rfl, respondsStatus_ite _ (respondsStatus_respond ((Unanswered.refl s).busClose.setCtl .closed) _)⟩
  | mapConstruct => exact execMapConstruct_responds _ _ _ _ _ _ s
  | mapSetSteering => exact ⟨_, rfl, respondsStatus_ite_not _ (respondsStatus_answer (unanswered_setAxis _ _ s))⟩
  | mapSetThrottle => exact ⟨_, rfl, respondsStatus_ite_not _ (respondsStatus_answer (unanswered_setAxis _ _ s))⟩
  | mapRecalCenter =>
    refine ⟨_, rfl, respondsStatus_ite _ (respondsStatus_ite _ ?_)⟩
    exact respondsStatus_respond ((Unanswered.refl s).setCal _ _) _
  | mapStop => exact ⟨_, rfl, respondsStatus_ite_not _ (respondsStatus_answer (unanswered_stopAxes s))⟩
  | mapShutdown => exact execMapShutdown_responds s

/-- The response of any command: a data byte exactly with a BUS_READ that answers OK. -/
theorem exec_respondsLast (i : Instr) (s : State) :
    ∃ t st data, exec i s = .next t ∧ RespondsLast s t st data ∧
      (data.isSome = true ↔ i.opcode = .busRead ∧ st = .ok) := by
  by_cases reads : i.opcode = .busRead
  · cases i with
    | busRead addr reg =>
      obtain ⟨t, st, data, ran, responds, byte⟩ := execBusRead_responds addr reg s
      exact ⟨t, st, data, ran, responds, by simpa [Instr.opcode] using byte⟩
    | _ => exact absurd reads (by simp [Instr.opcode])
  · obtain ⟨t, ran, st, responds⟩ := exec_respondsStatus i s reads
    exact ⟨t, st, none, ran, responds, by simp [reads]⟩

/-- Settles O45 (R99): the events before the response are those of the procedures, which answer nobody. -/
theorem everyCommandRespondsOnceAndLast : Obligations.EveryCommandRespondsOnceAndLast := by
  unfold Obligations.EveryCommandRespondsOnceAndLast
  intro i s
  obtain ⟨_, st, data, ran, ⟨u, ⟨evs, trace, silent⟩, rfl⟩, byte⟩ := exec_respondsLast i s
  exact ⟨_, evs, st, data, ran, by rw [respond_trace, trace], silent, rfl, rfl, byte⟩

end Sys2Proof.Machine
end

section
/-! The family of 40_bus_register_driver.md: the four raw commands, each through what its one shared procedure can
do. Without a handle of the host the last three are refused alike. -/

namespace Sys2Proof.Machine

/-! ## Device addresses (R92, R98) -/

/-- The field test of R98 is the range test: bit 7 of a byte is its top bit. -/
theorem addrLegal_iff (addr : Byte) : addrLegal addr = true ↔ addr.toNat < 128 := by
  have top : addr.getLsbD 7 = decide (128 ≤ addr.toNat) := BitVec.msb_eq_decide addr
  rw [addrLegal, top, beq_iff_eq, decide_eq_false_iff_not, not_le]

theorem devOf_toNat (addr : Byte) : (devOf addr).toNat = addr.toNat % 128 := by
  simp [devOf, BitVec.extractLsb'_toNat]

/-! ## What the raw commands run (R131, R134 to R137) -/

/-- R135 to R137: BUS_WRITE, BUS_READ and BUS_CLOSE test the owner before anything else. -/
theorem rawCommand_refused {i : Instr} {s : State} (raw : isRaw i = true) (later : i.opcode ≠ .busOpen)
    (other : s.block.busOwner ≠ .host) : Refuses i s .invalidState := by
  cases i with
  | busOpen => exact absurd rfl later
  | busWrite => exact failWith_refuses (congrArg Host.Outcome.next (if_pos other))
  | busRead => exact failWith_refuses (congrArg Host.Outcome.next (if_pos other))
  | busClose => exact failWith_refuses (congrArg Host.Outcome.next (if_pos other))
  | _ => exact absurd raw (by simp [isRaw, Instr.opcode])

theorem exec_busOpen (bus : Byte) (s : State) : exec (.busOpen bus) s = .next (answer (busOpen bus .host s)) := rfl

theorem exec_busWrite_of_host (addr reg val : Byte) {s : State} (owner : s.block.busOwner = .host) :
    exec (.busWrite addr reg val) s = .next (answer (memWrite (devOf addr) reg val s)) :=
  congrArg Host.Outcome.next (if_neg (not_not_intro owner))

theorem exec_busRead_of_done {addr reg v : Byte} {s t : State} (owner : s.block.busOwner = .host)
    (ran : memRead (devOf addr) reg s = .done v t) :
    exec (.busRead addr reg) s = .next (t.respond .ok (some v)) := by
  simp only [exec, execBusRead, owner, ran, ne_eq, not_true_eq_false, if_false]

theorem exec_busRead_of_raised {addr reg : Byte} {e : Error} {s t : State} (owner : s.block.busOwner = .host)
    (ran : memRead (devOf addr) reg s = .raised e t) :
    exec (.busRead addr reg) s = .next (failWith e t) := by
  simp only [exec, execBusRead, owner, ran, ne_eq, not_true_eq_false, if_false]

theorem exec_busClose_of_host {s : State} (owner : s.block.busOwner = .host) :
    exec .busClose s = .next ((busClose s).respond .ok none) :=
  congrArg Host.Outcome.next (if_neg (not_not_intro owner))

/-! ## The answer after what was produced (R99, R236) -/

theorem answered_done {s t : State} {evs : List Event} {b : Block} (produced : Produced s t evs b) :
    Answered s (answer (.done () t)) evs .ok b := produced.respond .ok none

theorem answered_raised {s t : State} {evs : List Event} {b : Block} {e : Error} (produced : Produced s t evs b) :
    Answered s (answer (.raised e t)) evs (.error e) b := produced.respond (.error e) none

/-! ## The four statements -/

/-- Settles O22 (R134, R130): the three ends of `BusOpen`, two of them with a port the environment may draw. -/
theorem busOpenClaimsAFreePort : Obligations.BusOpenClaimsAFreePort := by
  unfold Obligations.BusOpenClaimsAFreePort
  refine ⟨fun bus => decode_encode (.busOpen bus), fun s bus => ?_⟩
  rw [exec_busOpen]
  obtain ⟨unavailable, result⟩ | ⟨free, present, result⟩ := busOpen_cases bus .host s
  · rw [result]
    refine ⟨fun _ => ⟨_, rfl, ?_, rfl⟩, fun free present => ?_⟩
    · exact answered_raised (.event _ _ _ _ rfl rfl rfl rfl rfl rfl rfl)
    · exact absurd unavailable (by simp [free, present])
  · rw [result]
    refine ⟨fun unavailable => absurd unavailable (by simp [free, present]), fun _ _ => ⟨_, rfl, ?_⟩⟩
    split
    · exact answered_done (.event _ _ _ _ rfl rfl rfl rfl rfl rfl rfl)
    · exact answered_raised (.event _ _ _ _ rfl rfl rfl rfl rfl rfl rfl)

/-- Settles O23 (R135): one `MemWrite`, whose end is the answer. -/
theorem busWriteDoesOneTransaction : Obligations.BusWriteDoesOneTransaction := by
  unfold Obligations.BusWriteDoesOneTransaction
  refine ⟨fun addr reg val => (decode_encode (.busWrite addr reg val)).trans (if_congr (addrLegal_iff addr) rfl rfl),
    fun s addr reg val => ⟨rawCommand_refused rfl (by simp [Instr.opcode]),
      fun owner => ⟨devOf_toNat addr, _, exec_busWrite_of_host addr reg val owner, ?_⟩⟩⟩
  obtain ⟨t, produced, -, result, -⟩ := memWrite_cases (devOf addr) reg val s
  rw [result]
  split
  · next acked =>
    rw [if_pos acked] at produced
    exact answered_done produced
  · next failed =>
    rw [if_neg failed] at produced
    exact answered_raised produced

/-- Settles O24 (R136): one `MemRead`; the byte it returns is the one the answer carries. -/
theorem busReadReturnsTheTargetsByte : Obligations.BusReadReturnsTheTargetsByte := by
  unfold Obligations.BusReadReturnsTheTargetsByte
  refine ⟨fun addr reg => (decode_encode (.busRead addr reg)).trans (if_congr (addrLegal_iff addr) rfl rfl),
    fun s addr reg => ⟨rawCommand_refused rfl (by simp [Instr.opcode]),
      fun owner => ⟨devOf_toNat addr, ?_⟩⟩⟩
  obtain ⟨t, produced, -, result, -⟩ := memRead_cases (devOf addr) reg s
  split
  · next acked =>
    rw [if_pos acked] at produced result
    exact ⟨_, exec_busRead_of_done owner result, produced.respond _ _⟩
  · next failed =>
    rw [if_neg failed] at produced result
    exact ⟨_, exec_busRead_of_raised owner result, produced.respond _ _⟩

/-- Settles O25 (R137): the close leaves no owner, so the owner test of a second one fails. -/
theorem busCloseReleasesTheHostsHandle : Obligations.BusCloseReleasesTheHostsHandle := by
  unfold Obligations.BusCloseReleasesTheHostsHandle
  refine ⟨decode_encode .busClose, fun s => ⟨rawCommand_refused rfl (by simp [Instr.opcode]),
    fun owner => ⟨_, exec_busClose_of_host owner, ?_, rfl, ?_⟩⟩⟩
  · exact (Produced.event s (busClose s) .closed _ rfl rfl rfl rfl rfl rfl rfl).respond _ _
  · exact rawCommand_refused rfl (by simp [Instr.opcode]) (by simp)

end Sys2Proof.Machine
end

section
/-! The family of 41_numerics.md: the clamps, the bytes of a tick and the base register. -/

namespace Sys2Proof.Machine

/-! ## The clamp (R153, R158) -/

theorem clamp_of_le {x lo hi : Q} (ordered : lo ≤ hi) (below : x ≤ lo) : clamp x lo hi = lo := by
  unfold clamp
  split
  · rfl
  · next inside => rw [if_neg (not_lt.mpr (below.trans ordered)), le_antisymm below (not_lt.mp inside)]

theorem clamp_of_ge {x lo hi : Q} (ordered : lo ≤ hi) (above : hi ≤ x) : clamp x lo hi = hi := by
  rw [clamp, if_neg (not_lt.mpr (ordered.trans above))]
  split
  · rfl
  · next inside => exact le_antisymm (not_lt.mp inside) above

theorem clamp_of_mem {x lo hi : Q} (low : lo ≤ x) (high : x ≤ hi) : clamp x lo hi = x := by
  rw [clamp, if_neg (not_lt.mpr low), if_neg (not_lt.mpr high)]

/-- Settles O13 (R153): the three cases of the clamp at the pulse bounds. -/
theorem pulseIsClampedToItsRange : Obligations.PulseIsClampedToItsRange := by
  unfold Obligations.PulseIsClampedToItsRange
  have ordered : Config.pulseMinMs ≤ Config.pulseMaxMs := by norm_num [Config.pulseMinMs, Config.pulseMaxMs]
  exact fun p => ⟨fun below => clamp_of_le ordered below.le, fun above => clamp_of_ge ordered above.le, clamp_of_mem⟩

/-! ## The bytes of a tick (R156) -/

theorem tickLow_toNat (t : Tick) : (tickLow t).toNat = t.toNat % 256 := by
  rw [tickLow_eq, BitVec.toNat_ofNat, Nat.mod_mod]

theorem tickHigh_toNat (t : Tick) : (tickHigh t).toNat = t.toNat / 256 := by
  have fits := t.isLt
  rw [tickHigh_eq, BitVec.toNat_ofNat, Nat.mod_eq_of_lt (by omega)]

/-- Settles O17 (R156): quotient and remainder of a 12-bit value by 256. -/
theorem tickBytesSplitTheTick : Obligations.TickBytesSplitTheTick := by
  unfold Obligations.TickBytesSplitTheTick
  intro t
  have fits := t.isLt
  rw [tickLow_toNat, tickHigh_toNat]
  exact ⟨rfl, rfl, by omega, (Nat.div_add_mod _ _).symm⟩

/-! ## The base register (R161) -/

/-- For a valid channel no address of its four registers wraps. -/
theorem baseReg_add_toNat {c : Byte} (valid : c.toNat ≤ 15) {k : Nat} (offset : k ≤ 3) :
    (baseReg c + BitVec.ofNat 8 k).toNat = 0x06 + 4 * c.toNat + k := by
  rw [baseReg_add c k _ rfl, BitVec.toNat_ofNat, Nat.mod_eq_of_lt (by omega)]
  omega

theorem baseReg_toNat {c : Byte} (valid : c.toNat ≤ 15) : (baseReg c).toNat = 0x06 + 4 * c.toNat := by
  simpa using baseReg_add_toNat valid (Nat.zero_le 3)

/-- Settles O18 (R161): the largest channel bounds every address, and larger ones fail the channel test. -/
theorem baseRegisterNeverOverflows : Obligations.BaseRegisterNeverOverflows := by
  unfold Obligations.BaseRegisterNeverOverflows
  refine ⟨fun c valid => ?_, fun c on off s invalid => setChannelTicks_invalid invalid on off s⟩
  rw [baseReg_toNat valid]
  refine ⟨rfl, by omega, by omega, fun k offset => ?_⟩
  rw [baseReg_add_toNat valid offset]
  exact ⟨rfl, by omega⟩

/-! ## Normalized commands (R158) -/

theorem cmdMin_le_cmdMax : Config.cmdMin ≤ Config.cmdMax := by norm_num [Config.cmdMin, Config.cmdMax]

theorem clampCommand_of_le {x : Q} (below : x ≤ -1) : clampCommand x = -1 := clamp_of_le cmdMin_le_cmdMax below

theorem clampCommand_of_ge {x : Q} (above : 1 ≤ x) : clampCommand x = 1 := clamp_of_ge cmdMin_le_cmdMax above

/-- R202 reads the command only through its clamped value. -/
theorem setAxis_congr {x y : Q} (same : clampCommand x = clampCommand y) (a : Axis) (s : State) :
    setAxis a x s = setAxis a y s := by
  simp only [setAxis, mapPulse, same]

theorem exec_mapSetSteering_congr {x y : D6} (same : clampCommand (d6Value x) = clampCommand (d6Value y))
    (s : State) : exec (.mapSetSteering x) s = exec (.mapSetSteering y) s := by
  simp only [exec, execMapSetSteering, setAxis_congr same]

theorem exec_mapSetThrottle_congr {x y : D6} (same : clampCommand (d6Value x) = clampCommand (d6Value y))
    (s : State) : exec (.mapSetThrottle x) s = exec (.mapSetThrottle y) s := by
  simp only [exec, execMapSetThrottle, setAxis_congr same]

/-- R96: the field of `k` millionths. -/
theorem d6Value_ofInt {k : Int} (low : -2147483648 ≤ k) (high : k ≤ 2147483647) :
    d6Value (BitVec.ofInt 32 k) = (k : Q) / 1000000 := by
  rw [d6Value, toInt_ofInt_of_mem_range low high, Config.d6Scale]

/-- Settles O19 (R158): both axes read the clamped value only, and 2.0 and 1.0 (-2.0 and -1.0) have the same one. -/
theorem commandIsClamped : Obligations.CommandIsClamped := by
  unfold Obligations.CommandIsClamped
  refine ⟨fun x => ⟨fun below => clampCommand_of_le below.le, fun above => clampCommand_of_ge above.le, clamp_of_mem⟩,
    fun x y s same => ⟨exec_mapSetSteering_congr same s, exec_mapSetThrottle_congr same s⟩,
    fun s => ⟨exec_mapSetSteering_congr ?_ s, exec_mapSetSteering_congr ?_ s⟩⟩
  · rw [d6Value_ofInt (by decide) (by decide), d6Value_ofInt (by decide) (by decide),
      clampCommand_of_ge (by norm_num), clampCommand_of_ge (by norm_num)]
  · rw [d6Value_ofInt (by decide) (by decide), d6Value_ofInt (by decide) (by decide),
      clampCommand_of_le (by norm_num), clampCommand_of_le (by norm_num)]

end Sys2Proof.Machine
end

section
/-! The family of 42_pwm_controller.md: the PWM Controller's procedures and its five commands. The commands that
drive channels share one ending, the two failures of PWM_CONSTRUCT share another, and R181 is a frame over all
commands. -/

namespace Sys2Proof.Machine

/-! ## The internal procedures (R172, R173) -/

/-- Settles O28 (R172): `initBlock` is the record the statement writes out. -/
theorem initSequenceRunsInOrder : Obligations.InitSequenceRunsInOrder := by
  unfold Obligations.InitSequenceRunsInOrder
  intro s
  obtain ⟨m, n, t, bound, cut, produced, result, granted⟩ := initSequence_cases s
  exact ⟨m, n, t, bound, cut, result, produced, granted⟩

/-- Settles O29 (R173): the two cases of the handle's owner. -/
theorem cleanupAttemptsEveryWrite : Obligations.CleanupAttemptsEveryWrite := by
  unfold Obligations.CleanupAttemptsEveryWrite
  exact fun s => ⟨cleanup_pwc s, cleanup_other s⟩

/-! ## Commands that drive channels (R175, R177, R179) -/

/-- A command that runs a procedure of k transactions and nothing else, and answers for it. -/
theorem exec_answers_performed {i : Instr} {s : State} {r : Ran Unit} {dev : DevAddr} {evs : List Event} {k : Nat}
    (meaning : exec i s = .next (answer r)) (performs : Performs r s dev evs) (length : evs.length = k)
    (transactions : evs.countP Event.isTransaction = k) :
    ∃ (n : Nat) (t : State), n ≤ k ∧ exec i s = .next t ∧
      Answered s t (cutAt evs n) (if n = k then .ok else .error .transferError) s.block ∧
      (s.env.grants dev k → n = k) := by
  obtain ⟨n, bound, -, answered, granted⟩ := performs.answered
  rw [transactions, length] at granted
  rw [cutStatus, length] at answered
  exact ⟨n, _, length ▸ bound, meaning, answered, granted⟩

theorem exec_pwmSetTicks_of_awake (ch : Byte) (on off : BitVec 16) {s : State} (awake : s.block.ctlState = .awake) :
    exec (.pwmSetTicks ch on off) s = .next (answer (setChannelTicks ch (tickOf on) (tickOf off) s)) :=
  congrArg Host.Outcome.next (if_neg (not_not_intro awake))

theorem exec_pwmSetPulse_of_awake (ch : Byte) (pulse : D6) {s : State} (awake : s.block.ctlState = .awake) :
    exec (.pwmSetPulse ch pulse) s = .next (answer (setPulseWidth ch (d6Value pulse) s)) :=
  congrArg Host.Outcome.next (if_neg (not_not_intro awake))

theorem exec_pwmStopAll_of_awake {s : State} (awake : s.block.ctlState = .awake) :
    exec .pwmStopAll s = .next (answer (stopAllChannels s)) :=
  congrArg Host.Outcome.next (if_neg (not_not_intro awake))

/-- R170: the four commands that need an awake controller test that first. -/
theorem awakeCommand_refused {i : Instr} {s : State}
    (awakeOnly : i.opcode ∈ [.pwmSetTicks, .pwmSetPulse, .pwmStopAll, .pwmClose])
    (other : s.block.ctlState ≠ .awake) : Refuses i s .invalidState := by
  cases i with
  | pwmSetTicks => exact failWith_refuses (congrArg Host.Outcome.next (if_pos other))
  | pwmSetPulse => exact failWith_refuses (congrArg Host.Outcome.next (if_pos other))
  | pwmStopAll => exact failWith_refuses (congrArg Host.Outcome.next (if_pos other))
  | pwmClose => exact failWith_refuses (congrArg Host.Outcome.next (if_pos other))
  | _ => exact absurd awakeOnly (by simp [Instr.opcode])

/-! ### PWM_SET_TICKS -/

theorem be16_toNat (b1 b0 : Byte) : (be16 b1 b0).toNat = 256 * b1.toNat + b0.toNat := append_byte_toNat b1 b0

/-- R97: bits 15 to 12 are zero exactly when the first byte of the field is below 16. -/
theorem tickLegal_be16_iff (b1 b0 : Byte) : tickLegal (be16 b1 b0) = true ↔ b1.toNat < 16 := by
  have low := b0.isLt
  have high := b1.isLt
  rw [tickLegal, beq_iff_eq, ← BitVec.toNat_inj, BitVec.extractLsb'_toNat, be16_toNat, Nat.shiftRight_eq_div_pow,
    BitVec.toNat_ofNat]
  omega

theorem tickOf_eq (x : BitVec 16) : tickOf x = BitVec.ofNat 12 x.toNat := by
  apply BitVec.eq_of_toNat_eq
  simp [tickOf, BitVec.extractLsb'_toNat]

theorem decode_pwmSetTicks (ch n1 n0 o1 o0 : Byte) : decode [0x11#8, ch, n1, n0, o1, o0] =
    if n1.toNat < 16 ∧ o1.toNat < 16 then .ok (.pwmSetTicks ch (be16 n1 n0) (be16 o1 o0))
    else .error (.illegalField .pwmSetTicks) := by
  have frame : encode (.pwmSetTicks ch (be16 n1 n0) (be16 o1 o0)) = [0x11#8, ch, n1, n0, o1, o0] := by
    simp only [encode, bytes16_of_be]
    rfl
  rw [← frame, decode_encode]
  refine if_congr ?_ rfl rfl
  rw [Instr.wellFormed, Bool.and_eq_true, tickLegal_be16_iff, tickLegal_be16_iff]

/-- Settles O31 (R175, R174): the state test, the channel test of `SetChannelTicks`, its four writes. -/
theorem setTicksWritesTheTickPair : Obligations.SetTicksWritesTheTickPair := by
  unfold Obligations.SetTicksWritesTheTickPair
  refine ⟨fun ch n1 n0 o1 o0 => ⟨be16_toNat n1 n0, decode_pwmSetTicks ch n1 n0 o1 o0⟩, fun s ch on off =>
    ⟨awakeCommand_refused (by simp [Instr.opcode]), fun awake invalid => ?_, fun awake valid => ?_⟩⟩
  · refine failWith_refuses ((exec_pwmSetTicks_of_awake ch on off awake).trans ?_)
    rw [setChannelTicks_invalid invalid, answer]
  · rw [← tickOf_eq, ← tickOf_eq]
    exact exec_answers_performed (exec_pwmSetTicks_of_awake ch on off awake) (performs_setChannelTicks valid _ _ s)
      rfl rfl

/-! ### PWM_SET_PULSE -/

/-- R14: what it is for a rounded number to reach an integer. -/
theorem le_round_iff {k : Int} {x : Q} : k ≤ round x ↔ (k : Q) ≤ x + 1 / 2 := Rat.le_floor_iff

theorem round_lt_iff {k : Int} {x : Q} : round x < k ↔ x + 1 / 2 < (k : Q) :=
  lt_iff_lt_of_le_iff_le le_round_iff

theorem half_le_clampPulse (p : Q) : 1 / 2 ≤ clampPulse p := by
  have ordered : Config.pulseMinMs ≤ Config.pulseMaxMs := by norm_num [Config.pulseMinMs, Config.pulseMaxMs]
  obtain below | inside := le_total p Config.pulseMinMs
  · exact (clamp_of_le ordered below).ge
  obtain inside' | above := le_total p Config.pulseMaxMs
  · exact inside.trans (clamp_of_mem inside inside').ge
  · exact ordered.trans (clamp_of_ge ordered above).ge

/-- R155: at a positive frequency the ticks of a clamped pulse are no negative number. -/
theorem dutyTicks_nonneg (p : Q) {f : Q} (positive : 0 < f) : 0 ≤ dutyTicks p f := by
  have pulse : 0 < clampPulse p := lt_of_lt_of_le (by norm_num) (half_le_clampPulse p)
  have product : 0 < clampPulse p * f * Config.ticksPerPeriod / 1000 := by
    unfold Config.ticksPerPeriod
    positivity
  refine le_min (le_round_iff.mpr ?_) (by decide)
  push_cast
  linarith

/-- R155: so the 12-bit field holds them exactly. -/
theorem dutyTick_toNat (p : Q) {f : Q} (positive : 0 < f) : ((dutyTick p f).toNat : Int) = dutyTicks p f := by
  have low := dutyTicks_nonneg p positive
  have high : dutyTicks p f ≤ 4095 := min_le_right _ _
  rw [dutyTick, BitVec.toNat_ofInt]
  omega

theorem decode_pwmSetPulse (ch p3 p2 p1 p0 : Byte) :
    decode [0x12#8, ch, p3, p2, p1, p0] = .ok (.pwmSetPulse ch (be32 p3 p2 p1 p0)) := by
  have frame : encode (.pwmSetPulse ch (be32 p3 p2 p1 p0)) = [0x12#8, ch, p3, p2, p1, p0] := by
    simp only [encode, bytes32_of_be]
    rfl
  rw [← frame, decode_encode]
  rfl

/-- Settles O32 (R177, R176): PWM_SET_TICKS with ON 0 and the duty ticks, whose formula is R153 to R155. -/
theorem setPulseWritesTheDutyTicks : Obligations.SetPulseWritesTheDutyTicks := by
  unfold Obligations.SetPulseWritesTheDutyTicks
  refine ⟨decode_pwmSetPulse, fun p f positive => dutyTick_toNat p positive, fun s ch pulse =>
    ⟨awakeCommand_refused (by simp [Instr.opcode]), fun awake invalid => ?_, fun awake valid => ?_⟩⟩
  · refine failWith_refuses ((exec_pwmSetPulse_of_awake ch pulse awake).trans ?_)
    rw [setPulseWidth, setChannelTicks_invalid invalid, answer]
  · exact exec_answers_performed (exec_pwmSetPulse_of_awake ch pulse awake) (performs_setPulseWidth valid _ s) rfl rfl

/-! ### PWM_STOP_ALL -/

/-- Settles O33 (R179, R178): the 64 writes of `StopAllChannels`. -/
theorem stopAllZeroesEveryChannel : Obligations.StopAllZeroesEveryChannel := by
  unfold Obligations.StopAllZeroesEveryChannel
  exact ⟨decode_encode .pwmStopAll, fun s => ⟨awakeCommand_refused (by simp [Instr.opcode]), fun awake =>
    exec_answers_performed (exec_pwmStopAll_of_awake awake) (performs_stopAllChannels s) rfl rfl⟩⟩

/-! ## PWM_CLOSE (R180) -/

theorem exec_pwmClose_of_awake {s : State} (awake : s.block.ctlState = .awake) :
    exec .pwmClose s = .next (((busClose s).setCtl .closed).respond .ok none) :=
  congrArg Host.Outcome.next (if_neg (not_not_intro awake))

/-- R171: the state test of PWM_CONSTRUCT. -/
theorem pwmConstruct_refused (bus addr : Byte) (freq : D6) {s : State}
    (constructed : s.block.ctlState ≠ .uninitialized) : Refuses (.pwmConstruct bus addr freq) s .invalidState :=
  failWith_refuses (congrArg Host.Outcome.next (if_pos constructed))

/-- R200: the commands that drive an axis need an awake controller. -/
theorem axisCommand_refused {i : Instr} {s : State}
    (axis : i.opcode ∈ [.mapSetSteering, .mapSetThrottle, .mapStop])
    (other : s.block.ctlState ≠ .awake) : Refuses i s .invalidState := by
  have notReady : ¬ mapperReady s = true := by simp [mapperReady, other]
  cases i with
  | mapSetSteering => exact failWith_refuses (congrArg Host.Outcome.next (if_neg notReady))
  | mapSetThrottle => exact failWith_refuses (congrArg Host.Outcome.next (if_neg notReady))
  | mapStop => exact failWith_refuses (congrArg Host.Outcome.next (if_neg notReady))
  | _ => exact absurd axis (by simp [Instr.opcode])

/-- Settles O34 (R180): the close leaves ctl_state Closed, so every later state test fails. -/
theorem pwmCloseReleasesTheHandle : Obligations.PwmCloseReleasesTheHandle := by
  unfold Obligations.PwmCloseReleasesTheHandle
  refine ⟨decode_encode .pwmClose, fun s => ⟨awakeCommand_refused (by simp [Instr.opcode]),
    fun awake => ⟨_, exec_pwmClose_of_awake awake, ?_, rfl, ?_, fun bus addr freq => ?_, fun x => ⟨?_, ?_, ?_⟩⟩⟩⟩
  · exact (Produced.event s ((busClose s).setCtl .closed) .closed _ rfl rfl rfl rfl rfl rfl rfl).respond _ _
  · exact awakeCommand_refused (by simp [Instr.opcode]) (by simp)
  · exact pwmConstruct_refused bus addr freq (by simp)
  all_goals exact axisCommand_refused (by simp [Instr.opcode]) (by simp)

end Sys2Proof.Machine
end

section
/-! PWM_CONSTRUCT (R171): which frequencies it takes, and its two failures, both of which end in the cleanup. -/

namespace Sys2Proof.Machine

/-! ## The frequencies PWM_CONSTRUCT takes (R150, R151) -/

/-- R151 under the default bounds: the interval of frequencies whose prescale is 3 to 255. -/
theorem prescaleValid_iff_interval {p : Params} {f : Q} (least : p.prescaleMin = 3#8)
    (greatest : p.prescaleMax = 255#8) :
    prescaleValid p f = true ↔ 390625 / 16416 < f ∧ f ≤ 390625 / 224 := by
  have bounds : prescaleValid p f = true ↔ (0 < f ∧ 3 ≤ prescaleOf f) ∧ prescaleOf f < 256 := by
    simp only [prescaleValid, least, greatest, Bool.and_eq_true, decide_eq_true_eq]
    exact and_congr_right' Int.lt_add_one_iff.symm
  rw [bounds, prescaleOf, le_round_iff, round_lt_iff, Config.oscHz, Config.ticksPerPeriod]
  push_cast
  constructor
  · rintro ⟨⟨positive, low⟩, high⟩
    have scaled : 0 < 4096 * f := by positivity
    have low' : 7 / 2 ≤ 25000000 / (4096 * f) := by linarith
    have high' : 25000000 / (4096 * f) < 513 / 2 := by linarith
    rw [le_div_iff₀ scaled] at low'
    rw [div_lt_iff₀ scaled] at high'
    exact ⟨by linarith, by linarith⟩
  · rintro ⟨above, below⟩
    have positive : 0 < f := lt_trans (by norm_num) above
    have scaled : 0 < 4096 * f := by positivity
    have low' : 7 / 2 ≤ 25000000 / (4096 * f) := (le_div_iff₀ scaled).mpr (by linarith)
    have high' : 25000000 / (4096 * f) < 513 / 2 := (div_lt_iff₀ scaled).mpr (by linarith)
    exact ⟨⟨positive, by linarith⟩, by linarith⟩

/-- The same interval in the millionths of R96: its two ends lie strictly between two D6 numbers. -/
theorem prescaleValid_d6Value_iff {p : Params} {n : D6} (least : p.prescaleMin = 3#8)
    (greatest : p.prescaleMax = 255#8) :
    prescaleValid p (d6Value n) = true ↔ 23795383 ≤ n.toInt ∧ n.toInt ≤ 1743861607 := by
  rw [prescaleValid_iff_interval least greatest, d6Value, Config.d6Scale]
  generalize n.toInt = k
  have lower : (390625 / 16416 : Q) < k / 1000000 ↔ 390625000000 < 16416 * k := by
    rw [div_lt_div_iff₀ (by norm_num) (by norm_num)]
    norm_cast
    omega
  have upper : (k / 1000000 : Q) ≤ 390625 / 224 ↔ 224 * k ≤ 390625000000 := by
    rw [div_le_div_iff₀ (by norm_num) (by norm_num)]
    norm_cast
    omega
  rw [lower, upper]
  omega

/-! ## Runs and their answers, continued -/

/-- A run of events, then a command's answer on the same port. -/
theorem Answered.after {s t u : State} {e₁ e₂ : List Event} {st : Status} {b : Block} (second : Answered t u e₂ st b)
    (first : Produced s t e₁ t.block) (port : b.busIndex = t.block.busIndex) : Answered s u (e₁ ++ e₂) st b := by
  unfold Answered
  rw [List.append_assoc]
  exact first.trans second port

/-- After an answer that left the controller closed PWM_CLOSE is refused. -/
theorem Answered.pwmClose_refused {s t : State} {evs : List Event} {st : Status} {b : Block}
    (answered : Answered s t evs st b) (notAwake : b.ctlState ≠ .awake) : Refuses .pwmClose t .invalidState :=
  awakeCommand_refused (by simp [Instr.opcode]) (by rwa [Produced.block answered])

/-- The fatal entry with a handle of the controller (R236 b, R238): the cleanup, then the error. -/
theorem failFatally_answered (e : Error) {s : State} (owner : s.block.busOwner = .pwc) :
    ∃ acks, acks.length = 64 ∧ Answered s (failFatally e s) (cleanupEvents s.block.devAddr acks) (.error e)
      { s.block with busOwner := .none, ctlState := .closed } := by
  obtain ⟨acks, attempts, produced⟩ := cleanup_pwc s owner
  exact ⟨acks, attempts, produced.respond (.error e) none⟩

/-- The end of PWM_CONSTRUCT: the init sequence, then OK, or the cleanup at the transaction that failed. -/
theorem initSequence_answered {s : State} (owner : s.block.busOwner = .pwc) :
    ∃ (m : Byte) (n : Nat) (acks : List Bool), n ≤ 7 ∧
      CutPoint (initEvents s.block.devAddr s.params s.block.prescale m) n ∧ acks.length = 64 ∧
      Answered s (answerFatally (initSequence s))
        (cutAt (initEvents s.block.devAddr s.params s.block.prescale m) n ++
          if n = 7 then [] else cleanupEvents s.block.devAddr acks)
        (if n = 7 then .ok else .error .transferError)
        { s.block with
          busOwner := if n = 7 then .pwc else .none
          ctlState := if n = 7 then .awake else .closed
          savedMode := if 2 ≤ n then m else s.block.savedMode } ∧
      (s.env.grants s.block.devAddr 6 → n = 7) := by
  obtain ⟨m, n, t, bound, cut, produced, result, granted⟩ := initSequence_cases s
  rw [result]
  by_cases completed : n = 7
  · refine ⟨m, n, List.replicate 64 true, bound, cut, List.length_replicate, ?_, granted⟩
    have end_eq : initBlock s.block m n = { s.block with
        busOwner := .pwc, ctlState := .awake, savedMode := if 2 ≤ n then m else s.block.savedMode } := by
      simp [initBlock, completed, ← owner]
    simp only [completed, if_true, List.append_nil] at produced end_eq ⊢
    exact end_eq ▸ produced.respond .ok none
  · have same_owner : t.block.busOwner = .pwc := by rw [produced.block]; exact owner
    obtain ⟨acks, attempts, answered⟩ := failFatally_answered .transferError same_owner
    refine ⟨m, n, acks, bound, cut, attempts, ?_, granted⟩
    have run : Produced s t _ t.block := produced.block.symm ▸ produced
    have whole := answered.after run rfl
    rw [produced.block] at whole
    simpa only [answerFatally, completed, if_false, initBlock] using whole

/-! ## The claim of the port (R130, R171) -/

theorem busOpen_unavailable {b : Byte} {s : State} (who : Owner)
    (unavailable : s.block.busOwner ≠ .none ∨ s.params.busCount ≤ b.toNat ∨ s.env.nextOpen.1 = false) :
    ∃ t, busOpen b who s = .raised .busUnavailable t ∧ Produced s t [.openFail b] s.block := by
  obtain ⟨-, result⟩ | ⟨free, present, result⟩ := busOpen_cases b who s
  · exact ⟨_, result, .event _ _ _ _ rfl rfl rfl rfl rfl rfl rfl⟩
  · have refused : s.env.nextOpen.1 = false :=
      (unavailable.resolve_left (not_not_intro free)).resolve_left (Nat.not_le.mpr present)
    rw [refused] at result
    exact ⟨_, result, .event _ _ _ _ rfl rfl rfl rfl rfl rfl rfl⟩

theorem busOpen_available {b : Byte} {s : State} (who : Owner) (free : s.block.busOwner = .none)
    (present : b.toNat < s.params.busCount) (drawn : s.env.nextOpen.1 = true) :
    ∃ t, busOpen b who s = .done () t ∧
      Produced s t [.opened b] { s.block with busOwner := who, busIndex := b } ∧ t.env = s.env.nextOpen.2 := by
  obtain ⟨unavailable, -⟩ | ⟨-, -, result⟩ := busOpen_cases b who s
  · exact absurd unavailable (by simp [free, present])
  · rw [drawn] at result
    exact ⟨_, result, .event _ _ _ _ rfl rfl rfl rfl rfl rfl rfl, rfl⟩

/-! ## The command -/

theorem decode_pwmConstruct (bus addr f3 f2 f1 f0 : Byte) : decode [0x10#8, bus, addr, f3, f2, f1, f0] =
    if addr.toNat < 128 then .ok (.pwmConstruct bus addr (be32 f3 f2 f1 f0))
    else .error (.illegalField .pwmConstruct) := by
  have frame : encode (.pwmConstruct bus addr (be32 f3 f2 f1 f0)) = [0x10#8, bus, addr, f3, f2, f1, f0] := by
    simp only [encode, bytes32_of_be]
    rfl
  rw [← frame, decode_encode]
  exact if_congr (addrLegal_iff addr) rfl rfl

theorem exec_pwmConstruct_of_raised {bus addr : Byte} {freq : D6} {e : Error} {s t : State}
    (fresh : s.block.ctlState = .uninitialized) (ran : busOpen bus .pwc s = .raised e t) :
    exec (.pwmConstruct bus addr freq) s = .next (failWith e t) := by
  simp only [exec, execPwmConstruct, fresh, ran, ne_eq, not_true_eq_false, if_false]

theorem exec_pwmConstruct_of_done {bus addr : Byte} {freq : D6} {s t : State}
    (fresh : s.block.ctlState = .uninitialized) (ran : busOpen bus .pwc s = .done () t) :
    exec (.pwmConstruct bus addr freq) s = .next (constructOpened addr freq t) := by
  simp only [exec, execPwmConstruct, fresh, ran, ne_eq, not_true_eq_false, if_false]

theorem constructOpened_of_invalid {addr : Byte} {freq : D6} {s : State}
    (invalid : prescaleValid s.params (d6Value freq) = false) :
    constructOpened addr freq s = failFatally .configError (s.setDevAddr (devOf addr)) := by
  simp only [constructOpened, setDevAddr_params, invalid, Bool.false_eq_true, if_false]

theorem constructOpened_of_valid {addr : Byte} {freq : D6} {s : State}
    (valid : prescaleValid s.params (d6Value freq) = true) :
    constructOpened addr freq s =
      answerFatally (initSequence ((s.setDevAddr (devOf addr)).setFreq (d6Value freq))) := by
  simp only [constructOpened, setDevAddr_params, valid, if_true]

/-- R171: a frequency the divider cannot make. -/
theorem exec_pwmConstruct_of_invalid {bus addr : Byte} {freq : D6} {s : State}
    (fresh : s.block.ctlState = .uninitialized) (free : s.block.busOwner = .none)
    (present : bus.toNat < s.params.busCount) (drawn : s.env.nextOpen.1 = true)
    (invalid : prescaleValid s.params (d6Value freq) = false) :
    ∃ (t : State) (acks : List Bool), acks.length = 64 ∧ exec (.pwmConstruct bus addr freq) s = .next t ∧
      Answered s t (.opened bus :: cleanupEvents (devOf addr) acks) (.error .configError)
        { s.block with busIndex := bus, devAddr := devOf addr, ctlState := .closed } := by
  obtain ⟨u, ran, opened, -⟩ := busOpen_available .pwc free present drawn
  have addressed := opened.withBlock (u.setDevAddr (devOf addr)).block (by simp [opened.block])
  obtain ⟨acks, attempts, answered⟩ := failFatally_answered .configError (s := u.setDevAddr (devOf addr))
    (by simp [opened.block])
  refine ⟨_, acks, attempts, (exec_pwmConstruct_of_done fresh ran).trans
    (congrArg Host.Outcome.next (constructOpened_of_invalid (opened.params.symm ▸ invalid))), ?_⟩
  have whole := answered.after addressed rfl
  rw [setDevAddr_block, opened.block] at whole
  simpa only [List.singleton_append, free] using whole

/-- R171: a frequency the divider can make. -/
theorem exec_pwmConstruct_of_valid {bus addr : Byte} {freq : D6} {s : State}
    (fresh : s.block.ctlState = .uninitialized) (free : s.block.busOwner = .none)
    (present : bus.toNat < s.params.busCount) (drawn : s.env.nextOpen.1 = true)
    (valid : prescaleValid s.params (d6Value freq) = true) :
    ∃ (m : Byte) (n : Nat) (t : State) (acks : List Bool), n ≤ 7 ∧
      CutPoint (initEvents (devOf addr) s.params (prescaleByte (d6Value freq)) m) n ∧ acks.length = 64 ∧
      exec (.pwmConstruct bus addr freq) s = .next t ∧
      Answered s t
        (.opened bus :: (cutAt (initEvents (devOf addr) s.params (prescaleByte (d6Value freq)) m) n ++
          if n = 7 then [] else cleanupEvents (devOf addr) acks))
        (if n = 7 then .ok else .error .transferError)
        { s.block with
          busOwner := if n = 7 then .pwc else .none
          busIndex := bus
          ctlState := if n = 7 then .awake else .closed
          devAddr := devOf addr
          freq := d6Value freq
          prescale := prescaleByte (d6Value freq)
          savedMode := if 2 ≤ n then m else s.block.savedMode } ∧
      (s.env.grants (devOf addr) 6 → n = 7) := by
  obtain ⟨u, ran, opened, env⟩ := busOpen_available .pwc free present drawn
  have programmed := opened.withBlock ((u.setDevAddr (devOf addr)).setFreq (d6Value freq)).block
    (by simp [opened.block])
  obtain ⟨m, n, acks, bound, cut, attempts, answered, granted⟩ :=
    initSequence_answered (s := (u.setDevAddr (devOf addr)).setFreq (d6Value freq)) (by simp [opened.block])
  have whole := answered.after programmed rfl
  simp only [setFreq_block, setDevAddr_block, setFreq_params, setDevAddr_params, opened.block, opened.params]
    at cut whole granted
  exact ⟨m, n, _, acks, bound, cut, attempts, (exec_pwmConstruct_of_done fresh ran).trans
    (congrArg Host.Outcome.next (constructOpened_of_valid (opened.params.symm ▸ valid))), whole,
    fun grants => granted (env ▸ nextOpen_grants grants)⟩

/-- Settles O30 (R171): the state test, `BusOpen`, the frequency test, the init sequence; a failure with the
port claimed leaves ctl_state Closed, which PWM_CLOSE refuses. -/
theorem constructProgramsTheTarget : Obligations.ConstructProgramsTheTarget := by
  unfold Obligations.ConstructProgramsTheTarget
  refine ⟨decode_pwmConstruct, fun p n => prescaleValid_d6Value_iff, fun s bus addr freq =>
    ⟨pwmConstruct_refused bus addr freq, fun fresh unavailable => ?_, fun fresh free present drawn invalid => ?_,
      fun fresh free present drawn valid => ?_⟩⟩
  · obtain ⟨t, ran, failed⟩ := busOpen_unavailable .pwc unavailable
    exact ⟨_, exec_pwmConstruct_of_raised fresh ran, failed.respond _ _⟩
  · obtain ⟨t, acks, attempts, ran, answered⟩ := exec_pwmConstruct_of_invalid fresh free present drawn invalid
    exact ⟨t, acks, attempts, ran, answered, answered.pwmClose_refused (by simp)⟩
  · obtain ⟨m, n, t, acks, bound, cut, attempts, ran, answered, granted⟩ :=
      exec_pwmConstruct_of_valid fresh free present drawn valid
    exact ⟨m, n, t, acks, bound, cut, attempts, ran, answered,
      fun failed => answered.pwmClose_refused (by simp [failed]), granted⟩

end Sys2Proof.Machine
end

section
/-! The controller's data for life (R181): the procedures of the Mapper and of the controller leave the block's record
alone, and what commands and services assign to it otherwise is neither `freq`, `prescale` nor `dev_addr`. -/

namespace Sys2Proof.Machine

/-! ## Procedures that leave the block's record alone, in any state -/

theorem Performs.state_block {r : Ran Unit} {s : State} {dev : DevAddr} {evs : List Event}
    (performs : Performs r s dev evs) : r.state.block = s.block := by
  obtain ⟨n, t, -, -, produced, result, -⟩ := performs
  have ended : r.state = t := by rw [result]; split <;> rfl
  rw [ended, produced.block]

/-- What both parts of a sequence keep, the sequence keeps: after a raise nothing more happens (R236). -/
theorem Ran.andThen_keeps {α β γ : Type} (f : State → γ) {r : Ran α} {next : α → State → Ran β} {s : State}
    (first : f r.state = f s) (second : ∀ a t, f (next a t).state = f t) : f (r.andThen next).state = f s := by
  cases r with
  | done a t => exact (second a t).trans first
  | raised e t => exact first

theorem memWrite_state_block (dev : DevAddr) (reg v : Byte) (s : State) :
    (memWrite dev reg v s).state.block = s.block := (performs_memWrite dev reg v s).state_block

theorem memRead_state_block (dev : DevAddr) (reg : Byte) (s : State) :
    (memRead dev reg s).state.block = s.block := by
  obtain ⟨t, produced, -, result, -⟩ := memRead_cases dev reg s
  have ended : (memRead dev reg s).state = t := by rw [result]; split <;> rfl
  rw [ended, produced.block]

/-- R174: the channel test fails without an effect. -/
theorem setChannelTicks_state_block (c : Byte) (on off : Tick) (s : State) :
    (setChannelTicks c on off s).state.block = s.block := by
  by_cases valid : c.toNat ≤ 15
  · exact (performs_setChannelTicks valid on off s).state_block
  · rw [setChannelTicks_invalid (Nat.not_le.mp valid)]
    rfl

theorem setPulseWidth_state_block (c : Byte) (p : Q) (s : State) : (setPulseWidth c p s).state.block = s.block :=
  setChannelTicks_state_block c _ _ s

theorem setAxis_state_block (a : Axis) (x : Q) (s : State) : (setAxis a x s).state.block = s.block :=
  setPulseWidth_state_block _ _ s

theorem stopAxes_state_block (s : State) : (stopAxes s).state.block = s.block :=
  Ran.andThen_keeps State.block (setAxis_state_block .throttle 0 s) fun _ => setAxis_state_block .steering 0

theorem stopAllChannels_state_block (s : State) : (stopAllChannels s).state.block = s.block :=
  (performs_stopAllChannels s).state_block

theorem shutdownSequence_state_block (s : State) : (shutdownSequence s).state.block = s.block :=
  Ran.andThen_keeps State.block (stopAxes_state_block s) fun _ t => stopAllChannels_state_block (wait .settleNeutral t)

/-! ## The data PWM_CONSTRUCT writes (R24 to R26) -/

/-- `freq`, `prescale` and `dev_addr`. -/
def State.setup (s : State) : Q × Byte × DevAddr := (s.block.freq, s.block.prescale, s.block.devAddr)

theorem setup_eq_iff {s t : State} : t.setup = s.setup ↔
    t.block.freq = s.block.freq ∧ t.block.prescale = s.block.prescale ∧ t.block.devAddr = s.block.devAddr := by
  simp only [State.setup, Prod.mk.injEq]

theorem setup_of_block {s t : State} (same : t.block = s.block) : t.setup = s.setup := by
  rw [State.setup, State.setup, same]

@[simp] theorem setMap_setup (s : State) (m : MapState) : (s.setMap m).setup = s.setup := rfl

@[simp] theorem setCal_setup (s : State) (a : Axis) (k : Cal) : (s.setCal a k).setup = s.setup := by
  cases a <;> rfl

@[simp] theorem cleanup_setup (s : State) : (cleanup s).setup = s.setup := by
  by_cases owner : s.block.busOwner = .pwc
  · obtain ⟨acks, -, produced⟩ := cleanup_pwc s owner
    rw [State.setup, produced.block, State.setup]
  · rw [cleanup_other s owner]

theorem busOpen_setup (b : Byte) (who : Owner) (s : State) : (busOpen b who s).state.setup = s.setup := by
  obtain ⟨-, result⟩ | ⟨-, -, result⟩ := busOpen_cases b who s
  · rw [result]
    rfl
  · rw [result]
    split <;> rfl

theorem shutdownBody_setup (s : State) : (shutdownBody s).2.setup = s.setup := by
  by_cases awake : s.block.ctlState = .awake
  · have sequence := setup_of_block (shutdownSequence_state_block (s.setMap .shutDown))
    simp only [shutdownBody, setMap_block, awake, ne_eq, not_true_eq_false, if_false]
    cases ran : shutdownSequence (s.setMap .shutDown) with
    | done _ t =>
      rw [ran] at sequence
      exact sequence
    | raised e t =>
      rw [ran] at sequence
      exact (cleanup_setup t).trans sequence
  · rw [shutdownBody_closed awake]
    rfl

@[simp] theorem answer_setup (r : Ran Unit) : (answer r).setup = r.state.setup := by
  cases r <;> rfl

@[simp] theorem answerFatally_setup (r : Ran Unit) : (answerFatally r).setup = r.state.setup := by
  cases r with
  | done _ t => rfl
  | raised e t => exact cleanup_setup t

/-- A command that tests the state first: refused at once, or carried out. -/
theorem ite_failWith_setup {s t : State} {c : Prop} [Decidable c] (e : Error) (carried : t.setup = s.setup) :
    (if c then failWith e s else t).setup = s.setup := by
  split
  · rfl
  · exact carried

/-- The same test with its branches the other way round. -/
theorem ite_not_failWith_setup {s t : State} {c : Prop} [Decidable c] (e : Error) (carried : t.setup = s.setup) :
    (if c then t else failWith e s).setup = s.setup := by
  split
  · exact carried
  · rfl

/-- A command whose procedure leaves the block's record alone. -/
theorem answer_setup_of_block {r : Ran Unit} {s : State} (same : r.state.block = s.block) :
    (answer r).setup = s.setup := (answer_setup r).trans (setup_of_block same)

/-! ## Commands and steps -/

theorem execBusRead_setup (addr reg : Byte) (s : State) :
    ∃ t, execBusRead addr reg s = .next t ∧ t.setup = s.setup := by
  refine ⟨_, rfl, ite_failWith_setup _ ?_⟩
  have same := setup_of_block (memRead_state_block (devOf addr) reg s)
  cases ran : memRead (devOf addr) reg s with
  | done v t => rwa [ran] at same
  | raised e t => rwa [ran] at same

theorem execMapConstruct_setup (sCh : Byte) (sCenter sHalf : D6) (tCh : Byte) (tCenter tHalf : D6) (s : State) :
    ∃ t, execMapConstruct sCh sCenter sHalf tCh tCenter tHalf s = .next t ∧ t.setup = s.setup := by
  refine ⟨_, rfl, ite_failWith_setup _ (ite_failWith_setup _ (ite_failWith_setup _ ?_))⟩
  have steering := fun u => setup_of_block (setAxis_state_block .steering 0 u)
  have throttle := fun u => setup_of_block (setAxis_state_block .throttle 0 u)
  have recorded := ((steering _).trans (setCal_setup _ .throttle ⟨tCh, d6Value tCenter, d6Value tHalf⟩)).trans
    (setCal_setup s .steering ⟨sCh, d6Value sCenter, d6Value sHalf⟩)
  rw [answerFatally_setup]
  exact Ran.andThen_keeps State.setup recorded fun _ t =>
    Ran.andThen_keeps State.setup (throttle t) fun _ u => setMap_setup u .active

theorem execMapShutdown_setup (s : State) : ∃ t, execMapShutdown s = .next t ∧ t.setup = s.setup := by
  refine ⟨_, rfl, ?_⟩
  split
  · rfl
  · rfl
  · exact shutdownBody_setup s

/-- Once a controller was constructed no command writes its data, and before that only PWM_CONSTRUCT does. -/
theorem exec_setup (i : Instr) (s : State) (other : i.opcode ≠ .pwmConstruct ∨ s.block.ctlState ≠ .uninitialized) :
    ∃ t, exec i s = .next t ∧ t.setup = s.setup := by
  cases i with
  | busOpen => exact ⟨_, rfl, (answer_setup _).trans (busOpen_setup _ _ s)⟩
  | busWrite => exact ⟨_, rfl, ite_failWith_setup _ (answer_setup_of_block (memWrite_state_block _ _ _ s))⟩
  | busRead => exact execBusRead_setup _ _ s
  | busClose => exact ⟨_, rfl, ite_failWith_setup _ rfl⟩
  | pwmConstruct =>
    have constructed : s.block.ctlState ≠ .uninitialized := other.resolve_left (not_not_intro rfl)
    exact ⟨_, congrArg Host.Outcome.next (if_pos constructed), rfl⟩
  | pwmSetTicks => exact ⟨_, rfl, ite_failWith_setup _ (answer_setup_of_block (setChannelTicks_state_block _ _ _ s))⟩
  | pwmSetPulse => exact ⟨_, rfl, ite_failWith_setup _ (answer_setup_of_block (setPulseWidth_state_block _ _ s))⟩
  | pwmStopAll => exact ⟨_, rfl, ite_failWith_setup _ (answer_setup_of_block (stopAllChannels_state_block s))⟩
  | pwmClose => exact ⟨_, rfl, ite_failWith_setup _ rfl⟩
  | mapConstruct => exact execMapConstruct_setup _ _ _ _ _ _ s
  | mapSetSteering => exact ⟨_, rfl, ite_not_failWith_setup _ (answer_setup_of_block (setAxis_state_block _ _ s))⟩
  | mapSetThrottle => exact ⟨_, rfl, ite_not_failWith_setup _ (answer_setup_of_block (setAxis_state_block _ _ s))⟩
  | mapRecalCenter => exact ⟨_, rfl, ite_failWith_setup _ (ite_failWith_setup _ (setCal_setup s _ _))⟩
  | mapStop => exact ⟨_, rfl, ite_not_failWith_setup _ (answer_setup_of_block (stopAxes_state_block s))⟩
  | mapShutdown => exact execMapShutdown_setup s

theorem exec_keeps_setup {i : Instr} {s t : State} (ran : exec i s = .next t)
    (other : i.opcode ≠ .pwmConstruct ∨ s.block.ctlState ≠ .uninitialized) : t.setup = s.setup := by
  obtain ⟨u, ran', same⟩ := exec_setup i s other
  rwa [← Host.Outcome.next.inj (ran'.symm.trans ran)]

theorem abortService_setup (s : State) : (abortService s).setup = s.setup := by
  simp only [abortService]
  split
  · rfl
  · split
    · exact shutdownBody_setup _
    · split
      · exact cleanup_setup _
      · rfl

/-- The step that takes a decodable frame runs its command. -/
theorem step_of_decoded {s : State} {frame : List Byte} {rest : List Input} {i : Instr}
    (idle : s.block.abortPending = false) (offered : s.inputs = .command frame :: rest)
    (decoded : decode frame = .ok i) : step s = exec i { s with inputs := rest } := by
  simp only [step, fetch, idle, offered, decoded, Bool.false_eq_true, if_false]

theorem step_of_abortPending {s : State} (pending : s.block.abortPending = true) : step s = .next (abortService s) := by
  simp only [step, fetch, pending, if_true]

/-- A step that takes a frame: either it keeps the controller's data, or it takes a PWM_CONSTRUCT while
uninitialized. -/
theorem step_command_setup {s t : State} {frame : List Byte} {rest : List Input} (ran : step s = .next t)
    (idle : s.block.abortPending = false) (offered : s.inputs = .command frame :: rest) :
    t.setup = s.setup ∨ ∃ bus addr freq, decode frame = .ok (.pwmConstruct bus addr freq) ∧
      s.block.ctlState = .uninitialized := by
  cases decoded : decode frame with
  | error e =>
    rw [step_undecodable idle offered decoded] at ran
    exact .inl (Host.Outcome.next.inj ran ▸ rfl)
  | ok i =>
    rw [step_of_decoded idle offered decoded] at ran
    by_cases other : i.opcode ≠ .pwmConstruct ∨ s.block.ctlState ≠ .uninitialized
    · exact .inl (exec_keeps_setup (s := { s with inputs := rest }) ran other)
    · obtain ⟨construct, fresh⟩ := not_or.mp other
      cases i with
      | pwmConstruct bus addr freq => exact .inr ⟨bus, addr, freq, rfl, not_not.mp fresh⟩
      | _ => exact absurd (by simp [Instr.opcode]) construct

/-- All that a step can do to the controller's data. -/
theorem step_setup {s t : State} (ran : step s = .next t) :
    t.setup = s.setup ∨ s.block.abortPending = false ∧ ∃ rest, s.inputs = .reset :: rest ∨
      ∃ frame bus addr freq, s.inputs = .command frame :: rest ∧ decode frame = .ok (.pwmConstruct bus addr freq) ∧
        s.block.ctlState = .uninitialized := by
  cases pending : s.block.abortPending with
  | true =>
    rw [step_of_abortPending pending] at ran
    exact .inl (Host.Outcome.next.inj ran ▸ abortService_setup s)
  | false =>
    cases waiting : s.inputs with
    | nil =>
      simp only [step, fetch, pending, waiting, Bool.false_eq_true, if_false] at ran
      exact .inl (Host.Outcome.next.inj ran ▸ rfl)
    | cons input rest =>
      cases input with
      | command frame =>
        refine (step_command_setup ran pending waiting).imp_right ?_
        rintro ⟨bus, addr, freq, decoded, fresh⟩
        exact ⟨rfl, rest, .inr ⟨frame, bus, addr, freq, rfl, decoded, fresh⟩⟩
      | reset => exact .inr ⟨rfl, rest, .inl rfl⟩
      | abort =>
        simp only [step, fetch, pending, waiting, Bool.false_eq_true, if_false] at ran
        exact .inl (Host.Outcome.next.inj ran ▸ rfl)
      | resetDuring frame =>
        simp [step, fetch, pending, waiting] at ran
      | foreignMaster =>
        simp only [step, fetch, pending, waiting, Bool.false_eq_true, if_false] at ran
        split at ran
        · exact .inl (Host.Outcome.next.inj ran ▸ rfl)
        · cases ran

/-- Settles O35 (R181): the frame of the commands, then of the steps. -/
theorem frequencyIsFixedForLife : Obligations.FrequencyIsFixedForLife := by
  unfold Obligations.FrequencyIsFixedForLife
  exact ⟨fun i s t ran other => setup_eq_iff.mp (exec_keeps_setup ran other),
    fun s t ran => (step_setup ran).imp_left setup_eq_iff.mp⟩

end Sys2Proof.Machine
end

section
/-! The family of 43_motion_mapper.md: the Motion Mapper's commands but MAP_SHUTDOWN. The commands that drive an axis
run one procedure and answer for it; MAP_CONSTRUCT ends fatally, in the cleanup; MAP_RECAL_CENTER touches one record. -/

namespace Sys2Proof.Machine

/-! ## Frames (R94) -/

/-- R94: an opcode and operand bytes that it reads as a command; only the field test of R92 is left. -/
theorem decode_of_operandsOf {o : Opcode} {operands : List Byte} {i : Instr} (read : operandsOf o operands = some i) :
    decode (o.code :: operands) = if i.wellFormed then .ok i else .error (.illegalField o) := by
  simp only [decode, opcodeOf_code, read]

/-- R94 for a command without an operand that R92 restricts. -/
theorem decode_eq_ok {o : Opcode} {operands : List Byte} {i : Instr} (read : operandsOf o operands = some i)
    (legal : i.wellFormed = true) : decode (o.code :: operands) = .ok i :=
  (decode_of_operandsOf read).trans (if_pos legal)

theorem axisLegal_iff (axis : Byte) : axisLegal axis = true ↔ axis.toNat ≤ 1 := by
  rw [axisLegal, Bool.or_eq_true, beq_iff_eq, beq_iff_eq, ← BitVec.toNat_inj, ← BitVec.toNat_inj,
    BitVec.toNat_ofNat, BitVec.toNat_ofNat]
  omega

/-! ## The commands that drive an axis (R200, R203, R204, R207) -/

theorem mapperReady_iff (s : State) :
    mapperReady s = true ↔ s.block.mapState = .active ∧ s.block.ctlState = .awake := by
  rw [mapperReady, Bool.and_eq_true, beq_iff_eq, beq_iff_eq]

/-- R200: the three commands that drive an axis need an active Mapper and an awake controller. -/
theorem axisCommand_refused_of_not_ready {i : Instr} {s : State}
    (axis : i.opcode ∈ [.mapSetSteering, .mapSetThrottle, .mapStop])
    (other : s.block.mapState ≠ .active ∨ s.block.ctlState ≠ .awake) : Refuses i s .invalidState := by
  have notReady : ¬ mapperReady s = true := by rwa [mapperReady_iff, not_and_or]
  cases i with
  | mapSetSteering => exact failWith_refuses (congrArg Host.Outcome.next (if_neg notReady))
  | mapSetThrottle => exact failWith_refuses (congrArg Host.Outcome.next (if_neg notReady))
  | mapStop => exact failWith_refuses (congrArg Host.Outcome.next (if_neg notReady))
  | _ => exact absurd axis (by simp [Instr.opcode])

theorem exec_mapSetSteering_of_ready (x : D6) {s : State} (ready : mapperReady s = true) :
    exec (.mapSetSteering x) s = .next (answer (setAxis .steering (d6Value x) s)) :=
  congrArg Host.Outcome.next (if_pos ready)

theorem exec_mapSetThrottle_of_ready (x : D6) {s : State} (ready : mapperReady s = true) :
    exec (.mapSetThrottle x) s = .next (answer (setAxis .throttle (d6Value x) s)) :=
  congrArg Host.Outcome.next (if_pos ready)

theorem exec_mapStop_of_ready {s : State} (ready : mapperReady s = true) :
    exec .mapStop s = .next (answer (stopAxes s)) :=
  congrArg Host.Outcome.next (if_pos ready)

/-- What R203, R204 and R207 share: the state test, then a procedure of k transactions for a channel in range. -/
theorem axisCommand_cases {i : Instr} {s : State} {r : Ran Unit} {evs : List Event} {k : Nat} {inRange : Prop}
    (axis : i.opcode ∈ [.mapSetSteering, .mapSetThrottle, .mapStop])
    (meaning : mapperReady s = true → exec i s = .next (answer r))
    (performs : inRange → Performs r s s.block.devAddr evs) (length : evs.length = k)
    (transactions : evs.countP Event.isTransaction = k) :
    (s.block.mapState ≠ .active ∨ s.block.ctlState ≠ .awake → Refuses i s .invalidState) ∧
    (s.block.mapState = .active → s.block.ctlState = .awake → inRange →
      ∃ (n : Nat) (t : State), n ≤ k ∧ exec i s = .next t ∧
        Answered s t (cutAt evs n) (if n = k then .ok else .error .transferError) s.block ∧
        (s.env.grants s.block.devAddr k → n = k)) :=
  ⟨axisCommand_refused_of_not_ready axis, fun active awake valid =>
    exec_answers_performed (meaning ((mapperReady_iff s).mpr ⟨active, awake⟩)) (performs valid) length transactions⟩

/-- Settles O39 (R203, R204, with R202): the four writes of `SetAxis`, on either axis. -/
theorem setAxisWritesTheMappedPulse : Obligations.SetAxisWritesTheMappedPulse := by
  unfold Obligations.SetAxisWritesTheMappedPulse
  refine ⟨fun x3 x2 x1 x0 => ⟨decode_eq_ok (o := .mapSetSteering) rfl rfl,
    decode_eq_ok (o := .mapSetThrottle) rfl rfl⟩, fun k x => rfl, fun s a x => ?_⟩
  cases a with
  | steering =>
    exact axisCommand_cases (by simp [Instr.opcode]) (exec_mapSetSteering_of_ready x)
      (fun valid => performs_setAxis valid _) rfl rfl
  | throttle =>
    exact axisCommand_cases (by simp [Instr.opcode]) (exec_mapSetThrottle_of_ready x)
      (fun valid => performs_setAxis valid _) rfl rfl

/-- Settles O41 (R207, R206): the eight writes of `Stop`. -/
theorem mapStopNeutralizesThrottleFirst : Obligations.MapStopNeutralizesThrottleFirst := by
  unfold Obligations.MapStopNeutralizesThrottleFirst
  exact ⟨decode_encode .mapStop, fun s =>
    axisCommand_cases (by simp [Instr.opcode]) exec_mapStop_of_ready performs_stopAxes rfl rfl⟩

/-! ## MAP_RECAL_CENTER (R205) -/

theorem setCal_busIndex (b : Block) (a : Axis) (k : Cal) : (b.setCal a k).busIndex = b.busIndex := by
  cases a <;> rfl

/-- R27: an assigned record is no event; only the response after it is. -/
theorem setCal_answered (s : State) (a : Axis) (k : Cal) :
    Answered s ((s.setCal a k).respond .ok none) [] .ok (s.block.setCal a k) :=
  ((Produced.refl s).withBlock _ (setCal_busIndex s.block a k)).respond .ok none

theorem decode_mapRecalCenter (axis e3 e2 e1 e0 : Byte) : decode [0x23#8, axis, e3, e2, e1, e0] =
    if axis.toNat ≤ 1 then .ok (.mapRecalCenter axis (be32 e3 e2 e1 e0))
    else .error (.illegalField .mapRecalCenter) := by
  have read : operandsOf .mapRecalCenter [axis, e3, e2, e1, e0] =
    some (.mapRecalCenter axis (be32 e3 e2 e1 e0)) := rfl
  exact (decode_of_operandsOf read).trans (if_congr (axisLegal_iff axis) rfl rfl)

theorem exec_mapRecalCenter_of_inactive {axis : Byte} {center : D6} {s : State}
    (inactive : s.block.mapState ≠ .active) :
    exec (.mapRecalCenter axis center) s = .next (failWith .invalidState s) :=
  congrArg Host.Outcome.next (if_pos inactive)

theorem exec_mapRecalCenter_of_invalid {axis : Byte} {center : D6} {s : State} (active : s.block.mapState = .active)
    (invalid : ¬ calibrationValid s.params (d6Value center) (s.block.cal (axisOf axis)).half = true) :
    exec (.mapRecalCenter axis center) s = .next (failWith .outOfRangeCalibration s) :=
  congrArg Host.Outcome.next ((if_neg (not_not_intro active)).trans (if_pos invalid))

theorem exec_mapRecalCenter_of_valid {axis : Byte} {center : D6} {s : State} (active : s.block.mapState = .active)
    (valid : calibrationValid s.params (d6Value center) (s.block.cal (axisOf axis)).half = true) :
    exec (.mapRecalCenter axis center) s = .next ((s.setCal (axisOf axis)
      { s.block.cal (axisOf axis) with center := d6Value center }).respond .ok none) :=
  congrArg Host.Outcome.next ((if_neg (not_not_intro active)).trans (if_neg (not_not_intro valid)))

/-- R205 on the record that the axis byte names. -/
theorem mapRecalCenter_cases (s : State) (axis : Byte) (center : D6) :
    (s.block.mapState ≠ .active → Refuses (.mapRecalCenter axis center) s .invalidState) ∧
    (s.block.mapState = .active →
      ¬ calibrationValid s.params (d6Value center) (s.block.cal (axisOf axis)).half = true →
      Refuses (.mapRecalCenter axis center) s .outOfRangeCalibration) ∧
    (s.block.mapState = .active →
      calibrationValid s.params (d6Value center) (s.block.cal (axisOf axis)).half = true →
      ∃ t, exec (.mapRecalCenter axis center) s = .next t ∧ t.wire = s.wire ∧ t.env = s.env ∧
        Answered s t [] .ok (s.block.setCal (axisOf axis)
          { s.block.cal (axisOf axis) with center := d6Value center })) :=
  ⟨fun inactive => failWith_refuses (exec_mapRecalCenter_of_inactive inactive),
    fun active invalid => failWith_refuses (exec_mapRecalCenter_of_invalid active invalid),
    fun active valid => ⟨_, exec_mapRecalCenter_of_valid active valid, rfl, rfl, setCal_answered s _ _⟩⟩

/-- Settles O40 (R205, R200): byte 0 names the steering record, byte 1 the throttle record. -/
theorem recalibrationReplacesTheCentreOnly : Obligations.RecalibrationReplacesTheCentreOnly := by
  unfold Obligations.RecalibrationReplacesTheCentreOnly
  refine ⟨decode_mapRecalCenter, fun s a center => ?_⟩
  cases a with
  | steering => exact mapRecalCenter_cases s 0#8 center
  | throttle => exact mapRecalCenter_cases s 1#8 center

/-! ## MAP_CONSTRUCT (R201) -/

/-- Sequencing is associative. -/
theorem Ran.andThen_assoc {α β γ : Type} (r : Ran α) (f : α → State → Ran β) (g : β → State → Ran γ) :
    (r.andThen f).andThen g = r.andThen fun a s => (f a s).andThen g := by
  cases r <;> rfl

/-- R202: one axis driven, then another. -/
theorem performs_setAxis_setAxis {s : State} {a a' : Axis} (first : (s.block.cal a).channel.toNat ≤ 15)
    (second : (s.block.cal a').channel.toNat ≤ 15) (x y : Q) :
    Performs ((setAxis a x s).andThen fun _ t => setAxis a' y t) s s.block.devAddr
      (axisEvents s.block a x ++ axisEvents s.block a' y) := by
  refine (performs_setAxis first x).andThen fun t same _ => ?_
  rw [← same] at second ⊢
  exact performs_setAxis second y

/-- The end of a command that sets map_state when its procedure completes and whose errors are fatal (R236 b, R238):
OK, or the cleanup at the transaction that failed. -/
theorem Performs.answeredFatally {r : Ran Unit} {s : State} {dev : DevAddr} {evs : List Event}
    (performs : Performs r s dev evs) (owner : s.block.busOwner = .pwc) (m : MapState) :
    ∃ (n : Nat) (acks : List Bool), n ≤ evs.length ∧ acks.length = 64 ∧
      Answered s (answerFatally (r.andThen fun _ t => .done () (t.setMap m)))
        (cutAt evs n ++ if n = evs.length then [] else cleanupEvents s.block.devAddr acks) (cutStatus evs n)
        (if n = evs.length then { s.block with mapState := m }
          else { s.block with busOwner := .none, ctlState := .closed }) ∧
      (s.env.grants dev (evs.countP Event.isTransaction) → n = evs.length) := by
  obtain ⟨n, t, bound, -, produced, result, granted⟩ := performs
  rw [result]
  by_cases completed : n = evs.length
  · refine ⟨n, List.replicate 64 true, bound, List.length_replicate, ?_, fun grants => (granted 0 grants).1⟩
    have assigned : Produced s (t.setMap m) (cutAt evs n) { s.block with mapState := m } :=
      produced.block ▸ produced.withBlock (t.setMap m).block (by rw [setMap_block, produced.block])
    have answered : Answered s ((t.setMap m).respond .ok none) (cutAt evs n) .ok _ := assigned.respond .ok none
    simpa only [completed, if_true, List.append_nil, cutStatus, Ran.andThen, answerFatally] using answered
  · obtain ⟨acks, attempts, answered⟩ := failFatally_answered .transferError (s := t)
      (by rw [produced.block]; exact owner)
    refine ⟨n, acks, bound, attempts, ?_, fun grants => (granted 0 grants).1⟩
    have whole := answered.after (produced.block.symm ▸ produced) rfl
    rw [produced.block] at whole
    simpa only [completed, if_false, cutStatus, Ran.andThen, answerFatally] using whole

section

variable {s : State} {sCh tCh : Byte} {sCenter sHalf tCenter tHalf : D6}

theorem exec_mapConstruct_of_not_ready (other : s.block.mapState ≠ .unconstructed ∨ s.block.ctlState ≠ .awake) :
    exec (.mapConstruct sCh sCenter sHalf tCh tCenter tHalf) s = .next (failWith .invalidState s) :=
  congrArg Host.Outcome.next (if_pos other)

theorem exec_mapConstruct_of_channel (ready : ¬ (s.block.mapState ≠ .unconstructed ∨ s.block.ctlState ≠ .awake))
    (above : 15 < sCh.toNat ∨ 15 < tCh.toNat) :
    exec (.mapConstruct sCh sCenter sHalf tCh tCenter tHalf) s = .next (failWith .invalidChannel s) :=
  congrArg Host.Outcome.next ((if_neg ready).trans (if_pos above))

theorem exec_mapConstruct_of_invalid (ready : ¬ (s.block.mapState ≠ .unconstructed ∨ s.block.ctlState ≠ .awake))
    (channels : ¬ (15 < sCh.toNat ∨ 15 < tCh.toNat))
    (invalid : ¬ (calibrationValid s.params (d6Value sCenter) (d6Value sHalf) = true ∧
      calibrationValid s.params (d6Value tCenter) (d6Value tHalf) = true)) :
    exec (.mapConstruct sCh sCenter sHalf tCh tCenter tHalf) s = .next (failWith .outOfRangeCalibration s) :=
  congrArg Host.Outcome.next ((if_neg ready).trans ((if_neg channels).trans (if_pos invalid)))

/-- R201 past its tests: both records assigned, the two axes centred as one procedure, then map_state. -/
theorem exec_mapConstruct_of_valid (ready : ¬ (s.block.mapState ≠ .unconstructed ∨ s.block.ctlState ≠ .awake))
    (channels : ¬ (15 < sCh.toNat ∨ 15 < tCh.toNat))
    (valid : calibrationValid s.params (d6Value sCenter) (d6Value sHalf) = true ∧
      calibrationValid s.params (d6Value tCenter) (d6Value tHalf) = true) :
    exec (.mapConstruct sCh sCenter sHalf tCh tCenter tHalf) s = .next (answerFatally
      (((setAxis .steering 0 ((s.setCal .steering ⟨sCh, d6Value sCenter, d6Value sHalf⟩).setCal .throttle
          ⟨tCh, d6Value tCenter, d6Value tHalf⟩)).andThen fun _ t => setAxis .throttle 0 t).andThen
        fun _ t => .done () (t.setMap .active))) := by
  rw [Ran.andThen_assoc]
  exact congrArg Host.Outcome.next ((if_neg ready).trans ((if_neg channels).trans (if_neg (not_not_intro valid))))

end

/-- Settles O38 (R201): the three tests in order, then the eight centring writes from the stored records. -/
theorem mapConstructCentresBothAxes : Obligations.MapConstructCentresBothAxes := by
  unfold Obligations.MapConstructCentresBothAxes
  refine ⟨fun _ _ _ _ _ _ _ _ _ _ _ _ _ _ _ _ _ _ => decode_eq_ok (o := .mapConstruct) rfl rfl,
    fun s sCh sCenter sHalf tCh tCenter tHalf =>
    ⟨fun other => failWith_refuses (exec_mapConstruct_of_not_ready other),
      fun fresh awake above => failWith_refuses (exec_mapConstruct_of_channel (by simp [fresh, awake]) above),
      fun fresh awake steers throttles invalid => failWith_refuses
        (exec_mapConstruct_of_invalid (by simp [fresh, awake]) (by omega) invalid),
      fun fresh awake owner steers throttles valid => ?_⟩⟩
  have channels : ¬ (15 < sCh.toNat ∨ 15 < tCh.toNat) := by omega
  have ran := exec_mapConstruct_of_valid (by simp [fresh, awake]) channels valid
  generalize stored : (s.setCal .steering ⟨sCh, d6Value sCenter, d6Value sHalf⟩).setCal .throttle
    ⟨tCh, d6Value tCenter, d6Value tHalf⟩ = u at ran
  have assigned : Produced s u [] u.block := stored ▸ (Produced.refl s).withBlock _ rfl
  have centred : Performs ((setAxis .steering 0 u).andThen fun _ t => setAxis .throttle 0 t) u u.block.devAddr _ :=
    performs_setAxis_setAxis (stored ▸ steers) (stored ▸ throttles) 0 0
  obtain ⟨n, acks, bound, attempts, answered, granted⟩ := centred.answeredFatally (stored ▸ owner) .active
  subst stored
  refine ⟨n, _, acks, bound, attempts, ran, ?_, granted⟩
  exact answered.after assigned (by split <;> rfl)

end Sys2Proof.Machine
end

section
/-! The family of 70_reset_and_hazards.md: reset, and that nothing else leads out of `ctl_state = Closed` or
`map_state = ShutDown`. No invariant is assumed: the statement is about every state. -/

namespace Sys2Proof.Machine

/-! ## What one step of the idle block can do (R241, R270, R271) -/

theorem step_of_reset {s : State} {rest : List Input} (idle : s.block.abortPending = false)
    (offered : s.inputs = .reset :: rest) : step s = .next (applyReset { s with inputs := rest }) := by
  simp only [step, fetch, idle, offered, Bool.false_eq_true, if_false]

/-- The ways in which a step ends in a next state, one for each act of the idle block. -/
inductive StepsTo (s : State) : State → Prop
  | service (pending : s.block.abortPending = true) : StepsTo s (abortService s)
  | wait (idle : s.block.abortPending = false) (empty : s.inputs = []) : StepsTo s s
  | command {frame : List Byte} {rest : List Input} {i : Instr} {t : State} (idle : s.block.abortPending = false)
      (offered : s.inputs = .command frame :: rest) (decoded : decode frame = .ok i)
      (ran : exec i { s with inputs := rest } = .next t) : StepsTo s t
  | illegal {frame : List Byte} {rest : List Input} {e : DecodeError} (idle : s.block.abortPending = false)
      (offered : s.inputs = .command frame :: rest) (undecodable : decode frame = .error e) :
      StepsTo s (failWith .illegalCommand { s with inputs := rest })
  | abort {rest : List Input} (idle : s.block.abortPending = false) (offered : s.inputs = .abort :: rest) :
      StepsTo s (raiseAbort { s with inputs := rest })
  | reset {rest : List Input} (idle : s.block.abortPending = false) (offered : s.inputs = .reset :: rest) :
      StepsTo s (applyReset { s with inputs := rest })
  | foreignMaster {rest : List Input} (idle : s.block.abortPending = false)
      (offered : s.inputs = .foreignMaster :: rest) (free : s.block.busOwner = .none) :
      StepsTo s { s with inputs := rest }

/-- All that a step can do. -/
theorem stepsTo_of_step {s t : State} (ran : step s = .next t) : StepsTo s t := by
  cases pending : s.block.abortPending with
  | true =>
    rw [step_of_abortPending pending] at ran
    exact Host.Outcome.next.inj ran ▸ .service pending
  | false =>
    cases waiting : s.inputs with
    | nil =>
      simp only [step, fetch, pending, waiting, Bool.false_eq_true, if_false] at ran
      exact Host.Outcome.next.inj ran ▸ .wait pending waiting
    | cons input rest =>
      cases input with
      | command frame =>
        cases decoded : decode frame with
        | ok i =>
          rw [step_of_decoded pending waiting decoded] at ran
          exact .command pending waiting decoded ran
        | error e =>
          rw [step_undecodable pending waiting decoded] at ran
          exact Host.Outcome.next.inj ran ▸ .illegal pending waiting decoded
      | reset =>
        rw [step_of_reset pending waiting] at ran
        exact Host.Outcome.next.inj ran ▸ .reset pending waiting
      | abort =>
        simp only [step, fetch, pending, waiting, Bool.false_eq_true, if_false] at ran
        exact Host.Outcome.next.inj ran ▸ .abort pending waiting
      | resetDuring frame => simp [step, fetch, pending, waiting] at ran
      | foreignMaster =>
        simp only [step, fetch, pending, waiting, Bool.false_eq_true, if_false] at ran
        split at ran
        · next free => exact Host.Outcome.next.inj ran ▸ .foreignMaster pending waiting free
        · cases ran

/-! ## The two ends of a life (R23, R28)

`Closed` and `ShutDown` are kept by every procedure and by every command; the two commands that assign another state
are kept out by their own state tests. -/

/-- From s to t a closed controller stayed closed and a Mapper that was shut down stayed so. -/
structure KeepsEnds (s t : State) : Prop where
  closed : s.block.ctlState = .closed → t.block.ctlState = .closed
  shutDown : s.block.mapState = .shutDown → t.block.mapState = .shutDown

theorem KeepsEnds.refl (s : State) : KeepsEnds s s := ⟨id, id⟩

theorem KeepsEnds.trans {s t u : State} (first : KeepsEnds s t) (second : KeepsEnds t u) : KeepsEnds s u :=
  ⟨second.closed ∘ first.closed, second.shutDown ∘ first.shutDown⟩

theorem KeepsEnds.of_block {s t : State} (same : t.block = s.block) : KeepsEnds s t :=
  ⟨fun closed => same ▸ closed, fun shut => same ▸ shut⟩

/-- A change that starts from neither end. -/
theorem KeepsEnds.of_live {s : State} (t : State) (live : s.block.ctlState ≠ .closed)
    (standing : s.block.mapState ≠ .shutDown) : KeepsEnds s t :=
  ⟨fun closed => absurd closed live, fun shut => absurd shut standing⟩

theorem KeepsEnds.respond {s t : State} (before : KeepsEnds s t) (st : Status) (data : Option Byte) :
    KeepsEnds s (t.respond st data) := ⟨before.closed, before.shutDown⟩

theorem KeepsEnds.abortServed {s t : State} (before : KeepsEnds s t) (st : Status) :
    KeepsEnds s (t.abortServed st) := ⟨before.closed, before.shutDown⟩

/-- R180, R208: the handle given back and the controller closed. -/
theorem KeepsEnds.close {s t : State} (before : KeepsEnds s t) : KeepsEnds s ((busClose t).setCtl .closed) :=
  ⟨fun _ => rfl, before.shutDown⟩

theorem keepsEnds_setCal (s : State) (a : Axis) (k : Cal) : KeepsEnds s (s.setCal a k) := by
  cases a <;> exact ⟨id, id⟩

theorem keepsEnds_failWith (s : State) (e : Error) : KeepsEnds s (failWith e s) := (KeepsEnds.refl s).respond _ none

theorem keepsEnds_answer {s : State} {r : Ran Unit} (before : KeepsEnds s r.state) : KeepsEnds s (answer r) := by
  cases r with
  | done _ t => exact before.respond .ok none
  | raised e t => exact before.respond (.error e) none

/-- A command that tests the state first: refused at once, or carried out where the test passes. -/
theorem keepsEnds_ite {s t : State} {c : Prop} [Decidable c] (e : Error) (carried : ¬ c → KeepsEnds s t) :
    KeepsEnds s (if c then failWith e s else t) := by
  split
  · exact keepsEnds_failWith s e
  · next passed => exact carried passed

/-- The same test with its branches the other way round. -/
theorem keepsEnds_ite_not {s t : State} {c : Prop} [Decidable c] (e : Error) (carried : KeepsEnds s t) :
    KeepsEnds s (if c then t else failWith e s) := by
  split
  · exact carried
  · exact keepsEnds_failWith s e

/-- R173: the cleanup closes the controller or does nothing; the Mapper is not its concern. -/
theorem cleanup_mapState (s : State) : (cleanup s).block.mapState = s.block.mapState := by
  by_cases owner : s.block.busOwner = .pwc
  · obtain ⟨acks, -, produced⟩ := cleanup_pwc s owner
    rw [produced.block]
  · rw [cleanup_other s owner]

theorem keepsEnds_cleanup (s : State) : KeepsEnds s (cleanup s) := by
  refine ⟨fun closed => ?_, fun shut => (cleanup_mapState s).trans shut⟩
  by_cases owner : s.block.busOwner = .pwc
  · obtain ⟨acks, -, produced⟩ := cleanup_pwc s owner
    rw [produced.block]
  · rwa [cleanup_other s owner]

theorem keepsEnds_busOpen (b : Byte) (who : Owner) (s : State) : KeepsEnds s (busOpen b who s).state := by
  obtain ⟨-, result⟩ | ⟨-, -, result⟩ := busOpen_cases b who s
  · rw [result]
    exact .of_block rfl
  · rw [result]
    split <;> exact ⟨id, id⟩

/-- R208: the body shuts the Mapper down, and closes the controller where it finds it awake. -/
theorem keepsEnds_shutdownBody (s : State) : KeepsEnds s (shutdownBody s).2 := by
  have shut : KeepsEnds s (s.setMap .shutDown) := ⟨id, fun _ => rfl⟩
  by_cases awake : s.block.ctlState = .awake
  · have sequence := shut.trans (.of_block (shutdownSequence_state_block (s.setMap .shutDown)))
    simp only [shutdownBody, setMap_block, awake, ne_eq, not_true_eq_false, if_false]
    cases ran : shutdownSequence (s.setMap .shutDown) with
    | done _ t =>
      rw [ran] at sequence
      exact sequence.close
    | raised e t =>
      rw [ran] at sequence
      exact sequence.trans (keepsEnds_cleanup t)
  · rwa [shutdownBody_closed awake]

/-! ## Commands -/

/-- A command whose procedure leaves the block's record alone. -/
theorem keepsEnds_answer_of_block {r : Ran Unit} {s : State} (same : r.state.block = s.block) :
    KeepsEnds s (answer r) := keepsEnds_answer (.of_block same)

theorem execBusRead_keepsEnds (addr reg : Byte) (s : State) :
    ∃ t, execBusRead addr reg s = .next t ∧ KeepsEnds s t := by
  refine ⟨_, rfl, keepsEnds_ite _ fun _ => ?_⟩
  have same := KeepsEnds.of_block (memRead_state_block (devOf addr) reg s)
  cases ran : memRead (devOf addr) reg s with
  | done v t =>
    rw [ran] at same
    exact same.respond .ok (some v)
  | raised e t =>
    rw [ran] at same
    exact same.respond (.error e) none

theorem initSequence_mapState (s : State) : (initSequence s).state.block.mapState = s.block.mapState := by
  obtain ⟨m, n, t, -, -, produced, result, -⟩ := initSequence_cases s
  have ended : (initSequence s).state = t := by rw [result]; split <;> rfl
  rw [ended, produced.block, initBlock]

theorem answerFatally_mapState (r : Ran Unit) : (answerFatally r).block.mapState = r.state.block.mapState := by
  cases r with
  | done _ t => rfl
  | raised e t => exact cleanup_mapState t

/-- R171: the construction of a controller leaves map_state alone, however it ends. -/
theorem constructOpened_mapState (addr : Byte) (freq : D6) (s : State) :
    (constructOpened addr freq s).block.mapState = s.block.mapState := by
  cases valid : prescaleValid s.params (d6Value freq) with
  | true =>
    rw [constructOpened_of_valid valid, answerFatally_mapState]
    exact initSequence_mapState _
  | false =>
    rw [constructOpened_of_invalid valid]
    exact cleanup_mapState _

/-- R171: PWM_CONSTRUCT is for an uninitialized controller, so that a closed one is never constructed again. -/
theorem execPwmConstruct_keepsEnds (bus addr : Byte) (freq : D6) (s : State) :
    ∃ t, execPwmConstruct bus addr freq s = .next t ∧ KeepsEnds s t := by
  refine ⟨_, rfl, keepsEnds_ite _ fun fresh => ?_⟩
  have opened := keepsEnds_busOpen bus .pwc s
  cases ran : busOpen bus .pwc s with
  | done _ t =>
    rw [ran] at opened
    refine ⟨fun closed => absurd (by simp [closed]) fresh, fun shut => ?_⟩
    exact (constructOpened_mapState addr freq t).trans (opened.shutDown shut)
  | raised e t =>
    rw [ran] at opened
    exact opened.trans (keepsEnds_failWith t e)

/-- R201: MAP_CONSTRUCT is for an unconstructed Mapper on an awake controller. -/
theorem execMapConstruct_keepsEnds (sCh : Byte) (sCenter sHalf : D6) (tCh : Byte) (tCenter tHalf : D6) (s : State) :
    ∃ t, execMapConstruct sCh sCenter sHalf tCh tCenter tHalf s = .next t ∧ KeepsEnds s t := by
  refine ⟨_, rfl, keepsEnds_ite _ fun ready => keepsEnds_ite _ fun _ => keepsEnds_ite _ fun _ => ?_⟩
  obtain ⟨unconstructed, awake⟩ := not_or.mp ready
  exact .of_live _ (by simp [not_not.mp awake]) (by simp [not_not.mp unconstructed])

theorem execMapShutdown_keepsEnds (s : State) : ∃ t, execMapShutdown s = .next t ∧ KeepsEnds s t := by
  refine ⟨_, rfl, ?_⟩
  split
  · exact (KeepsEnds.refl s).respond _ none
  · exact keepsEnds_failWith s _
  · exact (keepsEnds_shutdownBody s).respond _ none

/-- No command leads out of `Closed` or out of `ShutDown`. -/
theorem exec_keepsEnds (i : Instr) (s : State) : ∃ t, exec i s = .next t ∧ KeepsEnds s t := by
  cases i with
  | busOpen => exact ⟨_, rfl, keepsEnds_answer (keepsEnds_busOpen _ _ s)⟩
  | busWrite => exact ⟨_, rfl, keepsEnds_ite _ fun _ => keepsEnds_answer_of_block (memWrite_state_block _ _ _ s)⟩
  | busRead => exact execBusRead_keepsEnds _ _ s
  | busClose => exact ⟨_, rfl, keepsEnds_ite _ fun _ => ⟨id, id⟩⟩
  | pwmConstruct => exact execPwmConstruct_keepsEnds _ _ _ s
  | pwmSetTicks =>
    exact ⟨_, rfl, keepsEnds_ite _ fun _ => keepsEnds_answer_of_block (setChannelTicks_state_block _ _ _ s)⟩
  | pwmSetPulse =>
    exact ⟨_, rfl, keepsEnds_ite _ fun _ => keepsEnds_answer_of_block (setPulseWidth_state_block _ _ s)⟩
  | pwmStopAll => exact ⟨_, rfl, keepsEnds_ite _ fun _ => keepsEnds_answer_of_block (stopAllChannels_state_block s)⟩
  | pwmClose => exact ⟨_, rfl, keepsEnds_ite _ fun _ => (KeepsEnds.refl s).close.respond .ok none⟩
  | mapConstruct => exact execMapConstruct_keepsEnds _ _ _ _ _ _ s
  | mapSetSteering => exact ⟨_, rfl, keepsEnds_ite_not _ (keepsEnds_answer_of_block (setAxis_state_block _ _ s))⟩
  | mapSetThrottle => exact ⟨_, rfl, keepsEnds_ite_not _ (keepsEnds_answer_of_block (setAxis_state_block _ _ s))⟩
  | mapRecalCenter =>
    exact ⟨_, rfl, keepsEnds_ite _ fun _ => keepsEnds_ite _ fun _ => (keepsEnds_setCal s _ _).respond .ok none⟩
  | mapStop => exact ⟨_, rfl, keepsEnds_ite_not _ (keepsEnds_answer_of_block (stopAxes_state_block s))⟩
  | mapShutdown => exact execMapShutdown_keepsEnds s

/-- R241: the abort service shuts down, closes, or leaves both as they are. -/
theorem keepsEnds_abortService (s : State) : KeepsEnds s (abortService s) := by
  have latched (pending taken : Bool) :
      KeepsEnds s { s with block := { s.block with abortPending := pending, abortTaken := taken } } := ⟨id, id⟩
  simp only [abortService]
  split
  · exact latched false _
  · split
    · exact ((latched false true).trans (keepsEnds_shutdownBody _)).abortServed _
    · split
      · exact ((latched false true).trans (keepsEnds_cleanup _)).abortServed .ok
      · exact (latched false true).abortServed .ok

/-! ## Steps -/

/-- A step takes a reset, or it keeps both ends. -/
theorem step_takes_reset_or_keepsEnds {s t : State} (ran : step s = .next t) :
    (∃ rest, s.inputs = .reset :: rest) ∨ KeepsEnds s t := by
  cases stepsTo_of_step ran with
  | service pending => exact .inr (keepsEnds_abortService s)
  | wait idle empty => exact .inr (.refl s)
  | @command frame rest i _ idle offered decoded ran =>
    obtain ⟨u, ran', keeps⟩ := exec_keepsEnds i { s with inputs := rest }
    rw [Host.Outcome.next.inj (ran.symm.trans ran')]
    exact .inr ⟨keeps.closed, keeps.shutDown⟩
  | illegal idle offered undecodable => exact .inr ⟨id, id⟩
  | abort idle offered => exact .inr ⟨id, id⟩
  | reset idle offered => exact .inl ⟨_, offered⟩
  | foreignMaster idle offered free => exact .inr ⟨id, id⟩

/-- Settles O53 (R270): the values of the reset block, then that a step without a reset keeps both ends. -/
theorem resetIsTheOnlyWayBack : Obligations.ResetIsTheOnlyWayBack := by
  unfold Obligations.ResetIsTheOnlyWayBack
  refine ⟨fun s rest idle offered =>
    ⟨_, step_of_reset idle offered, rfl, rfl, rfl, rfl, rfl, rfl, rfl, rfl, rfl, rfl, rfl, rfl⟩,
    fun s t ran => ⟨fun closed left => ?_, fun shut left => ?_⟩⟩
  · exact (step_takes_reset_or_keepsEnds ran).resolve_right fun keeps => left (keeps.closed closed)
  · exact (step_takes_reset_or_keepsEnds ran).resolve_right fun keeps => left (keeps.shutDown shut)

end Sys2Proof.Machine
end

section
/-! The family of 30_encoding.md, continued: the two round trips, the rows of the table as masks over a frame's
bytes, the step that runs a decoded command, and the frames on the two wires. -/

namespace Sys2Proof.Machine

/-! ## The round trips (R91 to R94) -/

/-- Settles O1: what the encoder writes is read back, and only the field test of R92 could refuse it. -/
theorem decodeEncodeRoundTrip : Obligations.DecodeEncodeRoundTrip := by
  unfold Obligations.DecodeEncodeRoundTrip
  intro i legal
  rw [decode_encode, if_pos legal]

/-- All that it takes for a frame to decode: an opcode byte, operand bytes it reads, and legal fields. -/
theorem decode_eq_ok_iff {c : List Byte} {i : Instr} : decode c = .ok i ↔ i.WellFormed ∧ encode i = c := by
  constructor
  · intro decoded
    match c with
    | [] => cases decoded
    | op :: operands =>
      simp only [decode] at decoded
      split at decoded
      · cases decoded
      · next o found =>
        split at decoded
        · cases decoded
        · next read =>
          split at decoded
          · next legal =>
            cases decoded
            obtain ⟨-, written, -⟩ := operandsOf_inv read
            exact ⟨legal, by rw [written, code_of_opcodeOf found]⟩
          · cases decoded
  · rintro ⟨legal, rfl⟩
    rw [decode_encode, if_pos legal]

theorem encode_length (i : Instr) : (encode i).length = i.opcode.frameLength := by
  cases i <;> rfl

/-- Settles O2: a frame that decodes is the one its command is written as. -/
theorem encodeDecodeRoundTrip : Obligations.EncodeDecodeRoundTrip := by
  unfold Obligations.EncodeDecodeRoundTrip
  intro c i decoded
  obtain ⟨legal, rfl⟩ := decode_eq_ok_iff.mp decoded
  exact ⟨legal, rfl, encode_length i⟩

/-! ## A frame as one number (R90) -/

theorem frameNumber_lt (c : List Byte) : frameNumber c < 2 ^ (8 * c.length) := by
  induction c with
  | nil => exact Nat.one_pos
  | cons b rest ih =>
    have digit := b.isLt
    rw [frameNumber, List.length_cons, Nat.mul_succ, Nat.pow_add]
    nlinarith

/-- The bits of two numbers in base `2 ^ k` are and-ed digit by digit. -/
theorem and_digits {k b m x y : Nat} (hx : x < 2 ^ k) (hy : y < 2 ^ k) :
    (b * 2 ^ k + x) &&& (m * 2 ^ k + y) = (b &&& m) * 2 ^ k + (x &&& y) := by
  apply Nat.eq_of_testBit_eq
  intro j
  simp only [Nat.testBit_and, Nat.mul_comm _ (2 ^ k), Nat.testBit_two_pow_mul_add _ hx,
    Nat.testBit_two_pow_mul_add _ hy, Nat.testBit_two_pow_mul_add _ (Nat.and_lt_two_pow x hy)]
  split <;> rfl

/-- So are two frames, byte by byte. -/
theorem frameNumber_and (c d : List Byte) (same : c.length = d.length) :
    frameNumber c &&& frameNumber d = frameNumber (List.zipWith (· &&& ·) c d) := by
  induction c generalizing d with
  | nil => exact Nat.zero_and _
  | cons b rest ih =>
    cases d with
    | nil => cases same
    | cons m rest' =>
      have same := Nat.succ.inj same
      have fits := frameNumber_lt rest'
      rw [← same] at fits
      have length : (List.zipWith (· &&& ·) rest rest').length = rest.length := by simp [same]
      rw [frameNumber, frameNumber, ← same, and_digits (frameNumber_lt rest) fits, ih rest' same,
        List.zipWith_cons_cons, frameNumber, length, BitVec.toNat_and]

theorem frameNumber_inj {c d : List Byte} (same : c.length = d.length) (equal : frameNumber c = frameNumber d) :
    c = d := by
  induction c generalizing d with
  | nil => exact (List.eq_nil_of_length_eq_zero same.symm).symm
  | cons b rest ih =>
    cases d with
    | nil => cases same
    | cons b' rest' =>
      have same := Nat.succ.inj same
      have low := frameNumber_lt rest
      have low' := frameNumber_lt rest'
      rw [frameNumber, frameNumber, ← same] at equal
      rw [← same] at low'
      have digits := congrArg (· / 2 ^ (8 * rest.length)) equal
      simp only [Nat.mul_comm _ (2 ^ (8 * rest.length)), Nat.mul_add_div (Nat.two_pow_pos _), Nat.div_eq_of_lt low,
        Nat.div_eq_of_lt low', Nat.add_zero] at digits
      rw [digits, Nat.add_left_cancel_iff] at equal
      rw [BitVec.eq_of_toNat_eq digits, ih same equal]

/-! ## The rows of the table (R92, R93) -/

/-- The bytes of a row's mask. -/
def maskFrame (o : Opcode) : List Byte := frameOfNumber o.frameLength o.mask

/-- The bytes of a row's match value. -/
def patternFrame (o : Opcode) : List Byte := frameOfNumber o.frameLength o.pattern

theorem frameNumber_maskFrame (o : Opcode) : frameNumber (maskFrame o) = o.mask := by
  cases o <;> decide

theorem frameNumber_patternFrame (o : Opcode) : frameNumber (patternFrame o) = o.pattern := by
  cases o <;> decide

theorem maskFrame_length (o : Opcode) : (maskFrame o).length = o.frameLength := by
  cases o <;> rfl

theorem patternFrame_length (o : Opcode) : (patternFrame o).length = o.frameLength := by
  cases o <;> rfl

/-- The row's test, byte by byte. -/
theorem matches_iff {c : List Byte} {o : Opcode} (length : c.length = o.frameLength) :
    frameNumber c &&& o.mask = o.pattern ↔ List.zipWith (· &&& ·) c (maskFrame o) = patternFrame o := by
  have same : c.length = (maskFrame o).length := length.trans (maskFrame_length o).symm
  rw [← frameNumber_maskFrame, ← frameNumber_patternFrame, frameNumber_and c _ same]
  refine ⟨frameNumber_inj ?_, congrArg frameNumber⟩
  simp [length, maskFrame_length, patternFrame_length]

/-- The first byte of a row's mask covers the whole opcode, and its match value is the opcode's code. -/
theorem opcode_of_matches {op : Byte} {operands : List Byte} {o : Opcode}
    (row : List.zipWith (· &&& ·) (op :: operands) (maskFrame o) = patternFrame o) : op = o.code := by
  have covered : (maskFrame o).head? = some 0xFF#8 := by cases o <;> rfl
  have expected : (patternFrame o).head? = some o.code := by cases o <;> rfl
  match mask : maskFrame o with
  | [] => simp [mask] at covered
  | m :: rest =>
    rw [mask] at row covered
    cases covered
    rw [← row] at expected
    have whole : op &&& 0xFF#8 = op := BitVec.and_allOnes
    exact whole.symm.trans (Option.some.inj expected)

/-- A mask of a byte's high bits tests the range of the byte. -/
theorem and_highBits_eq_zero_iff (b : Byte) (k : Nat) : b &&& (BitVec.allOnes 8 <<< k) = 0#8 ↔ b.toNat < 2 ^ k := by
  constructor
  · intro clear
    refine Nat.lt_pow_two_of_testBit _ fun j above => ?_
    have bit := congrArg (BitVec.getLsbD · j) clear
    by_cases inside : j < 8
    · have covered : (BitVec.allOnes 8).getLsbD (j - k) = true := by
        rw [BitVec.getLsbD_allOnes, decide_eq_true (by omega)]
      have unset : b.getLsbD j = false := by
        simpa only [BitVec.getLsbD_and, BitVec.getLsbD_shiftLeft, inside, Nat.not_lt.mpr above, covered, decide_true,
          decide_false, Bool.not_false, Bool.true_and, Bool.and_true, BitVec.getLsbD_zero] using bit
      exact unset
    · exact BitVec.getLsbD_of_ge b j (Nat.not_lt.mp inside)
  · intro small
    refine BitVec.eq_of_getLsbD_eq fun j _ => ?_
    by_cases below : j < k
    · simp [below]
    · have clear : b.getLsbD j = false :=
        Nat.testBit_lt_two_pow (lt_of_lt_of_le small (Nat.pow_le_pow_right Nat.two_pos (Nat.not_lt.mp below)))
      simp [clear]

/-- R92, R98: bit 7 of an address. -/
theorem addrLegal_iff_mask (addr : Byte) : addrLegal addr = true ↔ addr &&& 0x80#8 = 0#8 :=
  (addrLegal_iff addr).trans (and_highBits_eq_zero_iff addr 7).symm

/-- R92: bits 7 to 1 of an axis. -/
theorem axisLegal_iff_mask (axis : Byte) : axisLegal axis = true ↔ axis &&& 0xFE#8 = 0#8 :=
  (axisLegal_iff axis).trans (Nat.lt_succ_iff.symm.trans (and_highBits_eq_zero_iff axis 1).symm)

/-- R92, R97: the high four bits of a tick field's first byte. -/
theorem tickLegal_iff_mask (t : BitVec 16) : tickLegal t = true ↔ t.extractLsb' 8 8 &&& 0xF0#8 = 0#8 := by
  have range := tickLegal_be16_iff (t.extractLsb' 8 8) (t.extractLsb' 0 8)
  rw [be16_of_bytes] at range
  exact range.trans (and_highBits_eq_zero_iff _ 4).symm

/-- The field test of R92 is the row's mask over the frame of the command. -/
theorem wellFormed_iff_matches (i : Instr) :
    i.WellFormed ↔ List.zipWith (· &&& ·) (encode i) (maskFrame i.opcode) = patternFrame i.opcode := by
  cases i <;>
    simp [Instr.WellFormed, Instr.wellFormed, Instr.opcode, encode, bytes32, bytes16, maskFrame, patternFrame,
      frameOfNumber, Opcode.frameLength, Opcode.format, Format.length, Opcode.mask, Opcode.pattern, Opcode.code,
      addrLegal_iff_mask, axisLegal_iff_mask, tickLegal_iff_mask]

/-- Operand bytes of the right number are read as a command. -/
theorem operandsOf_of_length {o : Opcode} {operands : List Byte} (length : operands.length + 1 = o.frameLength) :
    ∃ i, operandsOf o operands = some i := by
  have length : operands.length = o.frameLength - 1 := by omega
  cases o with
  | busOpen => match operands, length with | [_], _ => exact ⟨_, rfl⟩
  | busWrite => match operands, length with | [_, _, _], _ => exact ⟨_, rfl⟩
  | busRead => match operands, length with | [_, _], _ => exact ⟨_, rfl⟩
  | busClose | pwmStopAll | pwmClose | mapStop | mapShutdown => match operands, length with | [], _ => exact ⟨_, rfl⟩
  | pwmConstruct => match operands, length with | [_, _, _, _, _, _], _ => exact ⟨_, rfl⟩
  | pwmSetTicks | pwmSetPulse | mapRecalCenter => match operands, length with | [_, _, _, _, _], _ => exact ⟨_, rfl⟩
  | mapConstruct =>
    match operands, length with | [_, _, _, _, _, _, _, _, _, _, _, _, _, _, _, _, _, _], _ => exact ⟨_, rfl⟩
  | mapSetSteering | mapSetThrottle => match operands, length with | [_, _, _, _], _ => exact ⟨_, rfl⟩

/-- Settles O3: a frame of a row's length is the frame of some command of the row once its opcode byte is right, and
what is left of the mask is the field test of R92. -/
theorem frameDecodesExactlyWhenItMatchesItsRow : Obligations.FrameDecodesExactlyWhenItMatchesItsRow := by
  unfold Obligations.FrameDecodesExactlyWhenItMatchesItsRow
  intro c o length
  rw [matches_iff length]
  constructor
  · rintro ⟨i, rfl, decoded⟩
    obtain ⟨legal, rfl⟩ := decode_eq_ok_iff.mp decoded
    exact (wellFormed_iff_matches i).mp legal
  · intro row
    match c with
    | [] => cases o <;> cases length
    | op :: operands =>
      obtain rfl := opcode_of_matches row
      obtain ⟨i, read⟩ := operandsOf_of_length length
      obtain ⟨rfl, written, -⟩ := operandsOf_inv read
      rw [← written] at row ⊢
      exact ⟨i, rfl, decode_eq_ok_iff.mpr ⟨(wellFormed_iff_matches i).mpr row, rfl⟩⟩

/-- Settles O4 (vector E1): the seven frames are those of commands with legal fields. -/
theorem specFramesDecode : Obligations.SpecFramesDecode := by
  unfold Obligations.SpecFramesDecode
  simp only [decode_eq_ok_iff]
  decide

/-- Settles O7: the state that `withFetchWord` makes offers the frame of the table word. -/
theorem stepRunsTheDecodedCommand : Obligations.StepRunsTheDecodedCommand := by
  unfold Obligations.StepRunsTheDecodedCommand
  refine ⟨fun s frame rest i => step_of_decoded, fun s nbits w i found => ?_⟩
  have decoded : decode (frameOfTableWord nbits w) = .ok i := by
    unfold decodeTableWord at found
    split at found
    · next read => rw [read, Option.some.inj found]
    · cases found
  exact step_of_decoded (s := s.withFetchWord nbits w) rfl rfl decoded

/-! ## The frames on the wires (R103 to R105) -/

theorem msbFirst_eq (b : Byte) : msbFirst b = (List.range 8).map b.getMsbD := by
  simp [msbFirst, List.range, List.range.loop, BitVec.getMsbD]

theorem ok_iff (r : Reply) : r.ok = true ↔ r.first = .ack ∧ r.second = .ack ∧ r.third = .ack := by
  rw [Reply.ok, Bool.and_eq_true, Bool.and_eq_true, beq_iff_eq, beq_iff_eq, beq_iff_eq, and_assoc]

/-- R105: an acknowledge slot that fails ends the frame at once, whatever of it was left. -/
theorem answered_of_failed {slot : Slot} (failed : slot ≠ .ack) :
    ∃ sym ∈ [WireSym.target true, .timeout], ∀ rest, answered slot rest = [sym, .stop] := by
  cases slot with
  | ack => exact absurd rfl failed
  | nack => exact ⟨_, by simp, fun _ => rfl⟩
  | timeout => exact ⟨_, by simp, fun _ => rfl⟩

theorem masterByte_length (b : Byte) : (masterByte b).length = 8 := rfl

/-- R103, R105: a frame of three bytes from the master, `third` before the last of them, that fails at one of its
acknowledge slots: what was sent is the part of the whole frame before that slot. -/
theorem failed_frame {b1 b2 b3 : Byte} {third rest : List WireSym} {r : Reply} (failed : r.ok = false) :
    ∃ (sent : List WireSym) (sym : WireSym), sym ∈ [.target true, .timeout] ∧
      .start :: (masterByte b1 ++ answered r.first (masterByte b2 ++ answered r.second
        (third ++ (masterByte b3 ++ answered r.third rest)))) = sent ++ [sym, .stop] ∧
      sent.length = (if r.first ≠ .ack then 9 else if r.second ≠ .ack then 18 else 27 + third.length) ∧
      sent <+: [.start] ++ masterByte b1 ++ [.target false] ++ masterByte b2 ++ (.target false :: third)
        ++ masterByte b3 := by
  by_cases first : r.first = .ack
  · by_cases second : r.second = .ack
    · have third_failed : r.third ≠ .ack := fun third => by simp [Reply.ok, first, second, third] at failed
      obtain ⟨sym, kind, cut⟩ := answered_of_failed third_failed
      refine ⟨_, sym, kind, ?_, ?_, List.prefix_rfl⟩
      · simp [first, second, answered.eq_1, cut]
      · simp [first, second, masterByte_length]
        omega
    · obtain ⟨sym, kind, cut⟩ := answered_of_failed second
      refine ⟨[.start] ++ masterByte b1 ++ [.target false] ++ masterByte b2, sym, kind, ?_, ?_, ?_⟩
      · simp [first, answered.eq_1, cut]
      · simp [first, second, masterByte_length]
      · exact ⟨.target false :: third ++ masterByte b3, by simp⟩
  · obtain ⟨sym, kind, cut⟩ := answered_of_failed first
    refine ⟨[.start] ++ masterByte b1, sym, kind, ?_, ?_, ?_⟩
    · simp [cut]
    · simp [first, masterByte_length]
    · exact ⟨.target false :: masterByte b2 ++ .target false :: third ++ masterByte b3, by simp⟩

/-- Settles O8 (R103 to R105): the two frames share `failed_frame`; a read sends the repeated start before its last
byte. -/
theorem wireFramesFollowTheirRules : Obligations.WireFramesFollowTheirRules := by
  unfold Obligations.WireFramesFollowTheirRules
  refine ⟨fun b => ?_, fun b => ?_, ok_iff, fun dev reg v r acked => ?_, fun dev reg r acked => ?_,
    fun dev reg v r failed => failed_frame (third := []) failed,
    fun dev reg r failed => failed_frame (third := [.restart]) failed, fun dev reg v s failed => ?_,
    fun dev reg s failed => ?_⟩
  · rw [masterByte, msbFirst_eq, List.map_map]
    rfl
  · rw [targetByte, msbFirst_eq, List.map_map]
    rfl
  · obtain ⟨first, second, third⟩ := (ok_iff r).mp acked
    simp [writeFrame, first, second, third, answered, addressByte]
  · obtain ⟨first, second, third⟩ := (ok_iff r).mp acked
    simp [readFrame, first, second, third, answered, addressByte]
  · obtain ⟨t, -, -, result, -⟩ := memWrite_cases dev reg v s
    rw [failed] at result
    exact ⟨t, result⟩
  · obtain ⟨t, -, -, result, -⟩ := memRead_cases dev reg s
    rw [failed] at result
    exact ⟨t, result⟩

end Sys2Proof.Machine
end

section
/-! The family of 41_numerics.md, continued: the two roundings and what they keep, the saturation of the duty ticks,
and the range of a valid calibration record. -/

namespace Sys2Proof.Machine

/-! ## Rounding (R14) -/

theorem round_le (x : Q) : ((round x : Int) : Q) ≤ x + 1 / 2 := le_round_iff.mp le_rfl

theorem lt_round_add_one (x : Q) : x + 1 / 2 < ((round x : Int) : Q) + 1 := by
  have := round_lt_iff.mp (Int.lt_succ (round x))
  push_cast at this
  exact this

theorem round_mono {x y : Q} (le : x ≤ y) : round x ≤ round y := le_round_iff.mpr (by linarith [round_le x])

/-! ## The prescale (R150 to R152) -/

/-- Settles O10 (R150, R152): rounding is nearest and monotone, and the quotient falls as the frequency rises. -/
theorem prescaleRoundsAndDoesNotIncrease : Obligations.PrescaleRoundsAndDoesNotIncrease := by
  unfold Obligations.PrescaleRoundsAndDoesNotIncrease
  refine ⟨fun f positive => ⟨round_le _, lt_round_add_one _, le_round_iff.mpr ?_⟩, fun f g positive le => ?_⟩
  · have quotient : 0 < Config.oscHz / (Config.ticksPerPeriod * f) := by
      unfold Config.oscHz Config.ticksPerPeriod
      positivity
    push_cast
    linarith
  · refine round_mono (sub_le_sub_right ?_ 1)
    unfold Config.oscHz Config.ticksPerPeriod
    gcongr

/-- Settles O11 (R152, C1): at 60 Hz the quotient rounds up to 101; the other two are ties. -/
theorem prescaleAtSixtyHertz : Obligations.PrescaleAtSixtyHertz := by
  unfold Obligations.PrescaleAtSixtyHertz
  have value {f : Q} {k : Int} (low : (k : Q) ≤ 25000000 / (4096 * f) - 1 + 1 / 2)
      (high : 25000000 / (4096 * f) - 1 + 1 / 2 < (k : Q) + 1) : prescaleOf f = k :=
    le_antisymm (Int.lt_add_one_iff.mp (round_lt_iff.mpr (by push_cast; exact high))) (le_round_iff.mpr low)
  exact ⟨value (by norm_num) (by norm_num), value (by norm_num) (by norm_num), value (by norm_num) (by norm_num)⟩

/-- R151: the test, clause by clause. -/
theorem prescaleValid_iff (p : Params) (f : Q) : prescaleValid p f = true ↔
    0 < f ∧ (p.prescaleMin.toNat : Int) ≤ prescaleOf f ∧ prescaleOf f ≤ (p.prescaleMax.toNat : Int) := by
  simp only [prescaleValid, Bool.and_eq_true, decide_eq_true_eq, and_assoc]

/-- R151, R26: whatever the bounds, a valid prescale fits its byte. -/
theorem prescaleByte_toNat {p : Params} {f : Q} (valid : prescaleValid p f = true) :
    ((prescaleByte f).toNat : Int) = prescaleOf f := by
  obtain ⟨-, low, high⟩ := (prescaleValid_iff p f).mp valid
  have byte := p.prescaleMax.isLt
  rw [prescaleByte, BitVec.toNat_ofInt]
  omega

/-- Settles O12 (R151) under the default bounds. -/
theorem prescaleValidOnItsInterval : Obligations.PrescaleValidOnItsInterval := by
  unfold Obligations.PrescaleValidOnItsInterval
  refine fun p f least greatest => ⟨?_, prescaleValid_iff_interval least greatest, prescaleByte_toNat⟩
  rw [prescaleValid_iff, least, greatest]
  rfl

/-! ## Ticks (R154, R155, R157) -/

theorem ticksOf_mono {p q f : Q} (positive : 0 < f) (le : p ≤ q) : ticksOf p f ≤ ticksOf q f := by
  refine round_mono ?_
  unfold Config.ticksPerPeriod
  gcongr

theorem clampPulse_le (p : Q) : clampPulse p ≤ 5 / 2 := by
  have ordered : Config.pulseMinMs ≤ Config.pulseMaxMs := by norm_num [Config.pulseMinMs, Config.pulseMaxMs]
  obtain below | inside := le_total p Config.pulseMinMs
  · exact (clamp_of_le ordered below).le.trans ordered
  obtain inside' | above := le_total p Config.pulseMaxMs
  · exact (clamp_of_mem inside inside').le.trans inside'
  · exact (clamp_of_ge ordered above).le

/-- R155: where the longest pulse leaves the tick range. -/
theorem saturates_iff (f : Q) : 4095 < ticksOf (5 / 2) f ↔ 204775 / 512 ≤ f := by
  have reach : 4095 < ticksOf (5 / 2) f ↔ 4096 ≤ ticksOf (5 / 2) f := Iff.rfl
  rw [reach, ticksOf, le_round_iff, Config.ticksPerPeriod]
  push_cast
  constructor <;> intro <;> linarith

/-- Settles O14 (R155): no pulse has more ticks than the longest one. -/
theorem dutyTicksSaturate : Obligations.DutyTicksSaturate := by
  unfold Obligations.DutyTicksSaturate
  refine fun p f positive => ⟨rfl, dutyTicks_nonneg p positive, min_le_right _ _, dutyTick_toNat p positive,
    saturates_iff f, fun below => min_eq_left ?_⟩
  have longest : ticksOf (5 / 2) f ≤ 4095 := not_lt.mp (mt (saturates_iff f).mp (not_le.mpr below))
  exact (ticksOf_mono positive (clampPulse_le p)).trans longest

/-- Settles O15 (R157): the rounding moves the scaled pulse by half a tick at most. -/
theorem ticksRoundTripWithinHalfATick : Obligations.TicksRoundTripWithinHalfATick := by
  unfold Obligations.TicksRoundTripWithinHalfATick
  intro p f positive
  have low : ((ticksOf p f : Int) : Q) ≤ p * f * 4096 / 1000 + 1 / 2 := round_le _
  have high : p * f * 4096 / 1000 + 1 / 2 < ((ticksOf p f : Int) : Q) + 1 := lt_round_add_one _
  have scale : 0 < f * 4096 := by positivity
  have error : ticksToPulse (ticksOf p f) f - p = ((ticksOf p f : Q) * 1000 - p * (f * 4096)) / (f * 4096) := by
    rw [ticksToPulse, Config.ticksPerPeriod, sub_div, mul_div_cancel_right₀ _ scale.ne']
  rw [error, abs_div, abs_of_pos scale]
  gcongr
  exact abs_le.mpr ⟨by linarith, by linarith⟩

/-- Settles O16 (R154): at 60 Hz the two ends of the pulse range bound all of it. -/
theorem ticksDoNotDecrease : Obligations.TicksDoNotDecrease := by
  unfold Obligations.TicksDoNotDecrease
  have least : ticksOf (1 / 2) 60 = 123 := le_antisymm
    (Int.lt_add_one_iff.mp (round_lt_iff.mpr (by norm_num [Config.ticksPerPeriod])))
    (le_round_iff.mpr (by norm_num [Config.ticksPerPeriod]))
  have greatest : ticksOf (5 / 2) 60 = 614 := le_antisymm
    (Int.lt_add_one_iff.mp (round_lt_iff.mpr (by norm_num [Config.ticksPerPeriod])))
    (le_round_iff.mpr (by norm_num [Config.ticksPerPeriod]))
  refine ⟨fun p f => ⟨round_le _, lt_round_add_one _⟩, fun p q f => ticksOf_mono, fun p low high => ⟨?_, ?_⟩, least,
    greatest⟩
  · exact least.ge.trans (ticksOf_mono (by norm_num) low)
  · exact (ticksOf_mono (by norm_num) high).trans greatest.le

/-! ## Calibration records (R159, R160) -/

/-- R160: the test, clause by clause. -/
theorem calibrationValid_iff (p : Params) (center half : Q) : calibrationValid p center half = true ↔
    0 ≤ half ∧ p.safeMinMs ≤ center - half ∧ center + half ≤ p.safeMaxMs := by
  simp only [calibrationValid, Bool.and_eq_true, decide_eq_true_eq, and_assoc]

/-- R158: the clamped command lies in [-1, 1]. -/
theorem clampCommand_mem (x : Q) : -1 ≤ clampCommand x ∧ clampCommand x ≤ 1 := by
  obtain below | above := le_total x (-1)
  · rw [clampCommand_of_le below]
    norm_num
  obtain inside | above' := le_total x 1
  · exact ⟨above.trans (clamp_of_mem above inside).ge, (clamp_of_mem above inside).le.trans inside⟩
  · rw [clampCommand_of_ge above']
    norm_num

/-- R159: with a half-range that is not negative the mapped pulse lies in center ± half. -/
theorem mapPulse_mem {k : Cal} (x : Q) (nonneg : 0 ≤ k.half) :
    k.center - k.half ≤ mapPulse k x ∧ mapPulse k x ≤ k.center + k.half := by
  obtain ⟨low, high⟩ := clampCommand_mem x
  unfold mapPulse
  constructor <;> nlinarith

theorem mapPulse_of_mem (k : Cal) {x : Q} (low : -1 ≤ x) (high : x ≤ 1) : mapPulse k x = k.center + x * k.half := by
  have unclamped : clampCommand x = x := clamp_of_mem low high
  rw [mapPulse, unclamped]

/-- Settles O20 (R159, R160): the safe range is the pulse range, so the clamp of R153 has nothing left to do. -/
theorem mapPulseStaysInTheRecordsRange : Obligations.MapPulseStaysInTheRecordsRange := by
  unfold Obligations.MapPulseStaysInTheRecordsRange
  refine ⟨fun k x low high => mapPulse_of_mem k low high, fun p k x least greatest => ?_⟩
  rw [calibrationValid_iff, least, greatest]
  refine ⟨Iff.rfl, fun ⟨nonneg, low, high⟩ => ?_⟩
  obtain ⟨above, below⟩ := mapPulse_mem x nonneg
  refine ⟨above, below, clamp_of_mem (low.trans above) (below.trans high), ?_⟩
  rw [mapPulse_of_mem k (by norm_num) (by norm_num), zero_mul, add_zero]

end Sys2Proof.Machine
end

section
/-! What the procedures of the model emit, in any state: for a property of events that the writes of a procedure have,
every event of the procedure has it, and everything else that the machine records follows from the events. -/

namespace Sys2Proof.Machine

/-- From s to t the machine emitted events that all have the property P; the accepted bytes, the number of frames on
the wires, the parameters and the inputs are what these events make of them, and earlier frames stay. -/
structure Emits (P : Event → Prop) (s t : State) : Prop where
  run : ∃ evs, Produced s t evs t.block ∧ ∀ e ∈ evs, P e
  frames : s.wire <+: t.wire
  device : s.env.wf = true → t.env.wf = true

/-- The same on one port and one device address. -/
structure Works (P : Event → Prop) (s t : State) : Prop extends Emits P s t where
  port : t.block.busIndex = s.block.busIndex
  address : t.block.devAddr = s.block.devAddr

section

variable {P : Event → Prop} {s t u : State}

theorem Emits.trans (first : Emits P s t) (second : Works P t u) : Emits P s u := by
  obtain ⟨e₁, produced₁, holds₁⟩ := first.run
  obtain ⟨e₂, produced₂, holds₂⟩ := second.run
  refine ⟨⟨e₁ ++ e₂, produced₁.trans produced₂ second.port, fun e mem => ?_⟩, first.frames.trans second.frames,
    second.device ∘ first.device⟩
  exact (List.mem_append.mp mem).elim (holds₁ e) (holds₂ e)

theorem Works.trans (first : Works P s t) (second : Works P t u) : Works P s u :=
  ⟨first.toEmits.trans second, second.port.trans first.port, second.address.trans first.address⟩

/-- One event that is no transaction; the block's record may change with it. -/
theorem Emits.of_event (e : Event) (holds : P e) (silent : e.isTransaction = false) (trace : t.trace = s.trace ++ [e])
    (wire : t.wire = s.wire) (mem : t.mem = s.mem) (params : t.params = s.params) (inputs : t.inputs = s.inputs)
    (target : t.env.target = s.env.target) : Emits P s t :=
  ⟨⟨[e], .event s t e _ trace wire mem params inputs rfl silent, by simpa using holds⟩, wire ▸ List.prefix_rfl,
    wf_of_target target⟩

/-- An assignment to the block's record, the port and the address kept. -/
theorem Works.assign (b : Block) (port : b.busIndex = s.block.busIndex) (address : b.devAddr = s.block.devAddr) :
    Works P s { s with block := b } :=
  ⟨⟨⟨[], (Produced.refl s).withBlock b port, by simp⟩, List.prefix_rfl, id⟩, port, address⟩

theorem Works.refl (s : State) : Works P s s := .assign s.block rfl rfl

theorem works_emit (s : State) {e : Event} (holds : P e) (silent : e.isTransaction = false) : Works P s (s.emit e) :=
  ⟨.of_event e holds silent rfl rfl rfl rfl rfl rfl, rfl, rfl⟩

theorem works_setCtl (s : State) (c : CtlState) : Works P s (s.setCtl c) := .assign _ rfl rfl

theorem works_setMap (s : State) (m : MapState) : Works P s (s.setMap m) := .assign _ rfl rfl

theorem works_setSavedMode (s : State) (m : Byte) : Works P s (s.setSavedMode m) := .assign _ rfl rfl

theorem works_setFreq (s : State) (f : Q) : Works P s (s.setFreq f) := .assign _ rfl rfl

theorem works_setCal (s : State) (a : Axis) (k : Cal) : Works P s (s.setCal a k) := by
  cases a <;> exact .assign _ rfl rfl

theorem works_wait (s : State) {p : DelayName} (holds : P (.delay p)) : Works P s (wait p s) :=
  works_emit s holds rfl

theorem works_busClose (s : State) (holds : P .closed) : Works P s (busClose s) :=
  (works_emit s holds rfl).trans (.assign _ rfl rfl)

theorem works_respond (s : State) {st : Status} {data : Option Byte} (holds : P (.resp st data)) :
    Works P s (s.respond st data) :=
  (Works.assign { s.block with lastStatus := st } rfl rfl).trans (works_emit _ holds rfl)

theorem works_abortServed (s : State) {st : Status} (holds : P (.abortDone st)) : Works P s (s.abortServed st) :=
  (Works.assign { s.block with lastStatus := st } rfl rfl).trans (works_emit _ holds rfl)

/-- After a raise nothing more happens (R236). -/
theorem Works.andThen {α β : Type} {r : Ran α} {next : α → State → Ran β} (first : Works P s r.state)
    (second : ∀ a t, r = .done a t → Works P t (next a t).state) : Works P s (r.andThen next).state := by
  cases r with
  | done a t => exact first.trans (second a t rfl)
  | raised e t => exact first

/-! ## Transactions and sequences of them -/

theorem works_memWrite {dev : DevAddr} {reg v : Byte} (s : State) (holds : ∀ a, P (.wr dev reg v a)) :
    Works P s (memWrite dev reg v s).state := by
  obtain ⟨t, produced, wire, result, env⟩ := memWrite_cases dev reg v s
  have ended : (memWrite dev reg v s).state = t := by rw [result]; split <;> rfl
  rw [ended]
  refine ⟨⟨⟨_, produced.block.symm ▸ produced, by simpa using holds _⟩, wire ▸ List.prefix_append _ _, fun wf => ?_⟩,
    congrArg Block.busIndex produced.block, congrArg Block.devAddr produced.block⟩
  have drawn := wf_of_target (nextReply_target s.env dev reg) wf
  rw [env]
  split
  · exact accept_wf _ dev reg v drawn
  · exact drawn

theorem works_memRead {dev : DevAddr} {reg : Byte} (s : State) (holds : ∀ got, P (.rd dev reg got)) :
    Works P s (memRead dev reg s).state := by
  obtain ⟨t, produced, wire, result, env⟩ := memRead_cases dev reg s
  have ended : (memRead dev reg s).state = t := by rw [result]; split <;> rfl
  rw [ended]
  refine ⟨⟨⟨_, produced.block.symm ▸ produced, by simpa using holds _⟩, wire ▸ List.prefix_append _ _, fun wf => ?_⟩,
    congrArg Block.busIndex produced.block, congrArg Block.devAddr produced.block⟩
  rw [env]
  exact wf_of_target (nextReply_target s.env dev reg) wf

theorem works_writeAll {dev : DevAddr} {ws : List (Byte × Byte)} (s : State)
    (holds : ∀ w ∈ ws, ∀ a, P (.wr dev w.1 w.2 a)) : Works P s (writeAll dev ws s).state := by
  induction ws generalizing s with
  | nil => exact .refl s
  | cons w rest ih =>
    obtain ⟨head, tail⟩ := List.forall_mem_cons.mp holds
    exact (works_memWrite s head).andThen fun _ t _ => ih t tail

theorem works_zeroIgnoring {dev : DevAddr} {regs : List Byte} (s : State)
    (holds : ∀ reg ∈ regs, ∀ a, P (.wr dev reg 0x00#8 a)) : Works P s (zeroIgnoring dev regs s) := by
  induction regs generalizing s with
  | nil => exact .refl s
  | cons reg rest ih =>
    obtain ⟨head, tail⟩ := List.forall_mem_cons.mp holds
    have attempt := works_memWrite s head
    rw [← ignoreErrors_eq_state] at attempt
    exact attempt.trans (ih _ tail)

/-! ## The channel registers -/

/-- P allows a zero in every channel register of a device. -/
def Zeroes (P : Event → Prop) (dev : DevAddr) : Prop :=
  ∀ reg ∈ allChannels.flatMap channelRegs, ∀ a, P (.wr dev reg 0x00#8 a)

/-- P allows tick pairs with ON 0 on a channel of a device, if there is such a channel. -/
def Drives (P : Event → Prop) (dev : DevAddr) (c : Byte) : Prop :=
  c.toNat ≤ 15 → ∀ off, ∀ w ∈ tickPairWrites c 0#12 off, ∀ a, P (.wr dev w.1 w.2 a)

theorem works_cleanup (s : State) (closed : P .closed) (zeroes : Zeroes P s.block.devAddr) :
    Works P s (cleanup s) := by
  unfold cleanup
  split
  · exact ((works_zeroIgnoring s zeroes).trans (works_busClose _ closed)).trans (works_setCtl _ _)
  · exact .refl s

theorem works_setChannelTicks {c : Byte} {on off : Tick} (s : State)
    (holds : c.toNat ≤ 15 → ∀ w ∈ tickPairWrites c on off, ∀ a, P (.wr s.block.devAddr w.1 w.2 a)) :
    Works P s (setChannelTicks c on off s).state := by
  unfold setChannelTicks
  split
  · exact .refl s
  · next valid => exact works_writeAll s (holds (Nat.not_lt.mp valid))

theorem works_setPulseWidth {c : Byte} (p : Q) (s : State) (drives : Drives P s.block.devAddr c) :
    Works P s (setPulseWidth c p s).state :=
  works_setChannelTicks s fun valid => drives valid _

theorem works_setAxis {a : Axis} (x : Q) (s : State) (drives : Drives P s.block.devAddr (s.block.cal a).channel) :
    Works P s (setAxis a x s).state :=
  works_setPulseWidth _ s drives

/-- A procedure that leaves the block's record alone, then another. -/
theorem Works.andThen_of_block {r : Ran Unit} {next : Unit → State → Ran Unit} (first : Works P s r.state)
    (same : r.state.block = s.block) (second : ∀ t, t.block = s.block → Works P t (next () t).state) :
    Works P s (r.andThen next).state :=
  first.andThen fun _ t ran => second t (by rw [← same, ran, Ran.state])

theorem works_stopAxes (s : State) (drives : ∀ a, Drives P s.block.devAddr (s.block.cal a).channel) :
    Works P s (stopAxes s).state :=
  (works_setAxis 0 s (drives .throttle)).andThen_of_block (setAxis_state_block .throttle 0 s) fun t same =>
    works_setAxis 0 t (same ▸ drives .steering)

theorem tickPairWrites_zero (c : Byte) :
    tickPairWrites c 0#12 0#12 = (channelRegs c).map fun reg => (reg, 0x00#8) := rfl

theorem works_stopChannels {cs : List Byte} (s : State)
    (holds : ∀ c ∈ cs, ∀ reg ∈ channelRegs c, ∀ a, P (.wr s.block.devAddr reg 0x00#8 a)) :
    Works P s (stopChannels cs s).state := by
  induction cs generalizing s with
  | nil => exact .refl s
  | cons c rest ih =>
    obtain ⟨head, tail⟩ := List.forall_mem_cons.mp holds
    have zeroed : Works P s (setChannelTicks c 0#12 0#12 s).state :=
      works_setChannelTicks s fun _ w mem => by
        rw [tickPairWrites_zero] at mem
        obtain ⟨reg, channel, rfl⟩ := List.mem_map.mp mem
        exact head reg channel
    exact zeroed.andThen_of_block (setChannelTicks_state_block c _ _ s) fun t same => ih t (same ▸ tail)

theorem works_stopAllChannels (s : State) (zeroes : Zeroes P s.block.devAddr) :
    Works P s (stopAllChannels s).state :=
  works_stopChannels s fun c channel reg mem => zeroes reg (List.mem_flatMap.mpr ⟨c, channel, mem⟩)

/-! ## The shutdown and the init sequence -/

/-- P allows what the body of MAP_SHUTDOWN emits with an awake controller. -/
structure MayShutDown (P : Event → Prop) (b : Block) : Prop where
  drives : ∀ a, Drives P b.devAddr (b.cal a).channel
  neutral : P (.delay .settleNeutral)
  zeroes : Zeroes P b.devAddr
  closed : P .closed

theorem works_shutdownSequence (s : State) (may : MayShutDown P s.block) : Works P s (shutdownSequence s).state :=
  (works_stopAxes s may.drives).andThen_of_block (stopAxes_state_block s) fun t same =>
    (works_wait t may.neutral).trans (works_stopAllChannels _ (show Zeroes P t.block.devAddr from same ▸ may.zeroes))

theorem works_shutdownBody (s : State) (may : s.block.ctlState = .awake → MayShutDown P s.block) :
    Works P s (shutdownBody s).2 := by
  have shut : Works P s (s.setMap .shutDown) := works_setMap s _
  by_cases awake : s.block.ctlState = .awake
  · have may := may awake
    have sequence := shut.trans (works_shutdownSequence (s.setMap .shutDown)
      ⟨may.drives, may.neutral, may.zeroes, may.closed⟩)
    simp only [shutdownBody, setMap_block, awake, ne_eq, not_true_eq_false, if_false]
    cases ran : shutdownSequence (s.setMap .shutDown) with
    | done _ t =>
      rw [ran] at sequence
      exact (sequence.trans (works_busClose t may.closed)).trans (works_setCtl _ _)
    | raised e t =>
      rw [ran] at sequence
      exact sequence.trans (works_cleanup t may.closed (sequence.address ▸ may.zeroes))
  · rwa [shutdownBody_closed awake]

/-- One write of the init sequence, then the rest of it. -/
theorem works_memWrite_andThen {α : Type} {dev : DevAddr} {reg v : Byte} {next : Unit → State → Ran α} (s : State)
    (holds : ∀ a, P (.wr dev reg v a)) (address : s.block.devAddr = dev)
    (rest : ∀ t, t.block.devAddr = dev → Works P t (next () t).state) :
    Works P s ((memWrite dev reg v s).andThen next).state :=
  (works_memWrite s holds).andThen fun _ t ran => by
    have same := memWrite_state_block dev reg v s
    rw [ran] at same
    exact rest t ((congrArg Block.devAddr same).trans address)

/-- R172. -/
theorem works_initSequence {dev : DevAddr} (s : State) (address : s.block.devAddr = dev)
    (mode : ∀ v a, P (.wr dev Config.regMode v a)) (prescale : ∀ v a, P (.wr dev Config.regPrescale v a))
    (saved : ∀ got, P (.rd dev Config.regMode got)) (settle : P (.delay .settleWake)) :
    Works P s (initSequence s).state := by
  unfold initSequence
  rw [address]
  refine works_memWrite_andThen s (mode _) address fun t₁ at₁ => ?_
  rw [at₁]
  refine (works_memRead t₁ saved).andThen fun m t₂ ran => ?_
  have same := memRead_state_block dev Config.regMode t₁
  rw [ran] at same
  refine (works_setSavedMode t₂ m).trans ?_
  have at₂ : (t₂.setSavedMode m).block.devAddr = dev := (congrArg Block.devAddr same).trans at₁
  dsimp only
  rw [at₂]
  refine works_memWrite_andThen _ (mode _) at₂ fun t₃ at₃ => (works_setCtl t₃ .sleeping).trans ?_
  have at₃ : (t₃.setCtl .sleeping).block.devAddr = dev := at₃
  rw [at₃]
  refine works_memWrite_andThen _ (prescale _) at₃ fun t₄ at₄ => ?_
  rw [at₄]
  refine works_memWrite_andThen t₄ (mode _) at₄ fun t₅ at₅ => (works_wait t₅ settle).trans ?_
  have at₅ : (wait .settleWake t₅).block.devAddr = dev := at₅
  rw [at₅]
  exact works_memWrite_andThen _ (mode _) at₅ fun t₆ _ => works_setCtl t₆ .awake

end

end Sys2Proof.Machine
end

section
/-! What a command can do, in any state: the events it may emit and the transitions of the block's record it may make.
The statements about all commands are read off these two. -/

namespace Sys2Proof.Machine

/-! ## Transitions of the block's record (10_state.md) -/

/-- The handle given back and the controller closed (R173, R180). -/
def Block.released (b : Block) : Block := { b with busOwner := .none, ctlState := .closed }

/-- What the cleanup leaves (R173). -/
def Block.cleaned (b : Block) : Block := if b.busOwner = .pwc then b.released else b

theorem cleanup_block (s : State) : (cleanup s).block = s.block.cleaned := by
  unfold Block.cleaned
  split
  · next owner =>
    obtain ⟨acks, -, produced⟩ := cleanup_pwc s owner
    exact produced.block
  · next other => rw [cleanup_other s other]

/-- What the body of MAP_SHUTDOWN makes of the block's record (R208). -/
inductive ShutDownTo (b : Block) : Block → Prop
  | behind (notAwake : b.ctlState ≠ .awake) : ShutDownTo b { b with mapState := .shutDown }
  | completed (awake : b.ctlState = .awake) : ShutDownTo b { b with mapState := .shutDown }.released
  | failed (awake : b.ctlState = .awake) : ShutDownTo b { b with mapState := .shutDown }.cleaned

theorem shutdownBody_block (s : State) : ShutDownTo s.block (shutdownBody s).2.block := by
  by_cases awake : s.block.ctlState = .awake
  · have same := shutdownSequence_state_block (s.setMap .shutDown)
    simp only [shutdownBody, setMap_block, awake, ne_eq, not_true_eq_false, if_false]
    cases ran : shutdownSequence (s.setMap .shutDown) with
    | done _ t =>
      have same : t.block = _ := ran ▸ same
      rw [setCtl_block, busClose_block, same]
      exact .completed awake
    | raised e t =>
      have same : t.block = _ := ran ▸ same
      rw [cleanup_block, same]
      exact .failed awake
  · rw [shutdownBody_closed awake]
    exact .behind awake

/-- The block's record after a command, but for last_status: as it was, or after one of the listed changes. -/
inductive Transition (i : Instr) (s : State) : Block → Prop
  | same (standing : i = .mapShutdown → s.block.mapState ≠ .active) : Transition i s s.block
  | hostOpened {bus : Byte} (command : i = .busOpen bus) (free : s.block.busOwner = .none)
      (present : bus.toNat < s.params.busCount) :
      Transition i s { s.block with busOwner := .host, busIndex := bus }
  | hostClosed (command : i = .busClose) (owner : s.block.busOwner = .host) :
      Transition i s { s.block with busOwner := .none }
  | constructed {bus addr : Byte} {freq : D6} {mode : Byte} (command : i = .pwmConstruct bus addr freq)
      (fresh : s.block.ctlState = .uninitialized) (present : bus.toNat < s.params.busCount)
      (valid : prescaleValid s.params (d6Value freq) = true) :
      Transition i s { s.block with
        busOwner := .pwc, busIndex := bus, ctlState := .awake, devAddr := devOf addr, freq := d6Value freq
        prescale := prescaleByte (d6Value freq), savedMode := mode }
  | constructFailed {bus addr : Byte} {freq : D6} {f : Q} {prescale mode : Byte}
      (command : i = .pwmConstruct bus addr freq) (fresh : s.block.ctlState = .uninitialized) :
      Transition i s { s.block with
        busOwner := .none, busIndex := bus, ctlState := .closed, devAddr := devOf addr, freq := f
        prescale := prescale, savedMode := mode }
  | controllerClosed (command : i = .pwmClose) (awake : s.block.ctlState = .awake) : Transition i s s.block.released
  | mapperConstructed {k₀ k₁ : Cal} (command : i.opcode = .mapConstruct) (awake : s.block.ctlState = .awake)
      (channels : k₀.channel.toNat ≤ 15 ∧ k₁.channel.toNat ≤ 15)
      (valid : calibrationValid s.params k₀.center k₀.half = true ∧
        calibrationValid s.params k₁.center k₁.half = true) :
      Transition i s { s.block with calSteering := k₀, calThrottle := k₁, mapState := .active }
  | mapperFailed {k₀ k₁ : Cal} (command : i.opcode = .mapConstruct) (awake : s.block.ctlState = .awake)
      (fresh : s.block.mapState = .unconstructed) :
      Transition i s { s.block with calSteering := k₀, calThrottle := k₁ }.cleaned
  | recalibrated {axis : Byte} {center : D6} (command : i = .mapRecalCenter axis center)
      (active : s.block.mapState = .active)
      (valid : calibrationValid s.params (d6Value center) (s.block.cal (axisOf axis)).half = true) :
      Transition i s (s.block.setCal (axisOf axis) { s.block.cal (axisOf axis) with center := d6Value center })
  | shutDown {b : Block} (command : i = .mapShutdown) (active : s.block.mapState = .active)
      (reached : ShutDownTo s.block b) : Transition i s b

/-! ## Events of a command -/

/-- The channels that a command of the controller or of the Mapper drives with ON 0 (R177, R201 to R208). -/
def drivenChannels (i : Instr) (b : Block) : List Byte :=
  match i with
  | .pwmSetPulse ch _ => [ch]
  | .mapConstruct sCh _ _ tCh _ _ => [sCh, tCh]
  | .mapSetSteering _ => [b.calSteering.channel]
  | .mapSetThrottle _ => [b.calThrottle.channel]
  | .mapStop | .mapShutdown => [b.calThrottle.channel, b.calSteering.channel]
  | _ => []

/-- The events that command i may emit in state s, where afterwards the port is `port` and the controller's address
`dev`. -/
inductive Permitted (i : Instr) (s : State) (port : Byte) (dev : DevAddr) : Event → Prop
  | silent {e : Event} (silent : e.isTransaction = false) (other : e ≠ .delay .settleNeutral) : Permitted i s port dev e
  | neutral (command : i = .mapShutdown) (active : s.block.mapState = .active) :
      Permitted i s port dev (.delay .settleNeutral)
  | rawWrite {addr reg v : Byte} {a : Ack} (command : i = .busWrite addr reg v) (owner : s.block.busOwner = .host) :
      Permitted i s port dev (.wr (devOf addr) reg v a)
  | rawRead {addr reg : Byte} {got : Option Byte} (command : i = .busRead addr reg) (owner : s.block.busOwner = .host) :
      Permitted i s port dev (.rd (devOf addr) reg got)
  | ticks {ch : Byte} {on off : BitVec 16} {w : Byte × Byte} {a : Ack} (command : i = .pwmSetTicks ch on off)
      (awake : s.block.ctlState = .awake) (valid : ch.toNat ≤ 15)
      (written : w ∈ tickPairWrites ch (tickOf on) (tickOf off)) :
      Permitted i s port dev (.wr s.block.devAddr w.1 w.2 a)
  | drive {c : Byte} {off : Tick} {w : Byte × Byte} {a : Ack} (driven : c ∈ drivenChannels i s.block)
      (awake : s.block.ctlState = .awake) (valid : c.toNat ≤ 15) (written : w ∈ tickPairWrites c 0#12 off) :
      Permitted i s port dev (.wr s.block.devAddr w.1 w.2 a)
  | zero {reg : Byte} {a : Ack} (stops : i.opcode ∈ [.pwmStopAll, .mapConstruct, .mapShutdown])
      (awake : s.block.ctlState = .awake) (channel : reg ∈ allChannels.flatMap channelRegs) :
      Permitted i s port dev (.wr s.block.devAddr reg 0x00#8 a)
  | setupWrite {bus addr : Byte} {freq : D6} {reg v : Byte} {a : Ack} (command : i = .pwmConstruct bus addr freq)
      (free : s.block.busOwner = .none) (onPort : port = bus) (toDevice : dev = devOf addr)
      (mapped : reg = Config.regMode ∨ reg = Config.regPrescale ∨ reg ∈ allChannels.flatMap channelRegs ∧ v = 0x00#8) :
      Permitted i s port dev (.wr (devOf addr) reg v a)
  | setupRead {bus addr : Byte} {freq : D6} {got : Option Byte} (command : i = .pwmConstruct bus addr freq)
      (free : s.block.busOwner = .none) (toDevice : dev = devOf addr) :
      Permitted i s port dev (.rd (devOf addr) Config.regMode got)

/-- What command i, from state s, did when it ended in t. -/
structure Meaning (i : Instr) (s t : State) : Prop where
  emits : Emits (Permitted i s t.block.busIndex t.block.devAddr) s t
  block : ∃ b st, Transition i s b ∧ t.block = { b with lastStatus := st }

section

variable {i : Instr} {s t u : State}

theorem permitted_resp {port : Byte} {dev : DevAddr} (st : Status) (data : Option Byte) :
    Permitted i s port dev (.resp st data) := .silent rfl nofun

theorem permitted_closed {port : Byte} {dev : DevAddr} : Permitted i s port dev .closed := .silent rfl nofun

theorem permitted_drives {port : Byte} {dev : DevAddr} {c : Byte} (driven : c ∈ drivenChannels i s.block)
    (awake : s.block.ctlState = .awake) : Drives (Permitted i s port dev) s.block.devAddr c :=
  fun valid _ _ written _ => .drive driven awake valid written

theorem permitted_zeroes {port : Byte} {dev : DevAddr} (stops : i.opcode ∈ [.pwmStopAll, .mapConstruct, .mapShutdown])
    (awake : s.block.ctlState = .awake) : Zeroes (Permitted i s port dev) s.block.devAddr :=
  fun _ channel _ => .zero stops awake channel

/-! ## How commands end -/

theorem Meaning.respond (emits : Emits (Permitted i s u.block.busIndex u.block.devAddr) s u)
    (moved : Transition i s u.block) (st : Status) (data : Option Byte) : Meaning i s (u.respond st data) :=
  ⟨emits.trans (works_respond u (permitted_resp st data)), u.block, st, moved, rfl⟩

/-- A command refused by a test of its own. -/
theorem Meaning.refused (standing : i = .mapShutdown → s.block.mapState ≠ .active) (e : Error) :
    Meaning i s (failWith e s) := .respond (Works.refl s).toEmits (.same standing) _ none

/-- A command that runs a procedure which leaves the block's record alone, and answers for it. -/
theorem Meaning.answer {r : Ran Unit} (other : i ≠ .mapShutdown) (same : r.state.block = s.block)
    (works : ∀ port dev, Works (Permitted i s port dev) s r.state) : Meaning i s (answer r) := by
  have moved : Transition i s r.state.block := same ▸ .same fun command => absurd command other
  cases r with
  | done _ t => exact .respond (works _ _).toEmits moved .ok none
  | raised e t => exact .respond (works _ _).toEmits moved (.error e) none

/-- A command that tests the state first: refused at once, or carried out where the test passes. -/
theorem meaning_ite {c : Prop} [Decidable c] (other : i ≠ .mapShutdown) (e : Error) (carried : ¬ c → Meaning i s t) :
    Meaning i s (if c then failWith e s else t) := by
  split
  · exact .refused (fun command => absurd command other) e
  · next passed => exact carried passed

/-- R200: the commands that drive an axis. -/
theorem meaning_axisCommand {r : Ran Unit} (other : i ≠ .mapShutdown) (same : r.state.block = s.block)
    (works : s.block.ctlState = .awake → ∀ port dev, Works (Permitted i s port dev) s r.state) :
    Meaning i s (if mapperReady s = true then answer r else failWith .invalidState s) := by
  split
  · next ready => exact .answer other same (works ((mapperReady_iff s).mp ready).2)
  · exact .refused (fun command => absurd command other) _

/-! ## The raw commands -/

theorem Emits.assign {P : Event → Prop} (before : Emits P s t) (b : Block) (port : b.busIndex = t.block.busIndex) :
    Emits P s { t with block := b } := by
  obtain ⟨evs, produced, holds⟩ := before.run
  exact ⟨⟨evs, produced.withBlock b port, holds⟩, before.frames, before.device⟩

theorem emits_busOpen {P : Event → Prop} (b : Byte) (who : Owner) (s : State) (opened : P (.opened b))
    (failed : P (.openFail b)) : Emits P s (busOpen b who s).state := by
  obtain ⟨-, result⟩ | ⟨-, -, result⟩ := busOpen_cases b who s
  · rw [result]
    exact .of_event _ failed rfl rfl rfl rfl rfl rfl rfl
  · rw [result]
    split
    · exact .of_event _ opened rfl rfl rfl rfl rfl rfl (nextOpen_target _)
    · exact .of_event _ failed rfl rfl rfl rfl rfl rfl (nextOpen_target _)

theorem meaning_busOpen (bus : Byte) (s : State) : Meaning (.busOpen bus) s (answer (busOpen bus .host s)) := by
  have emits (port : Byte) (dev : DevAddr) :
      Emits (Permitted (.busOpen bus) s port dev) s (busOpen bus .host s).state :=
    emits_busOpen bus .host s (.silent rfl nofun) (.silent rfl nofun)
  obtain ⟨-, result⟩ | ⟨free, present, result⟩ := busOpen_cases bus .host s
  · rw [result] at emits ⊢
    exact .respond (emits _ _) (.same nofun) _ none
  · rw [result] at emits ⊢
    split at emits
    · next drawn =>
      rw [if_pos drawn]
      exact .respond (emits _ _) (.hostOpened rfl free present) .ok none
    · next refused =>
      rw [if_neg refused]
      exact .respond (emits _ _) (.same nofun) _ none

theorem execBusRead_meaning (addr reg : Byte) (s : State) :
    ∃ t, execBusRead addr reg s = .next t ∧ Meaning (.busRead addr reg) s t := by
  refine ⟨_, rfl, meaning_ite (by simp) _ fun owner => ?_⟩
  have works (port : Byte) (dev : DevAddr) :
      Works (Permitted (.busRead addr reg) s port dev) s (memRead (devOf addr) reg s).state :=
    works_memRead s fun _ => .rawRead rfl (not_not.mp owner)
  have moved : Transition (.busRead addr reg) s (memRead (devOf addr) reg s).state.block :=
    memRead_state_block (devOf addr) reg s ▸ .same nofun
  cases ran : memRead (devOf addr) reg s with
  | done v t =>
    rw [ran] at works moved
    exact .respond (works _ _).toEmits moved .ok (some v)
  | raised e t =>
    rw [ran] at works moved
    exact .respond (works _ _).toEmits moved (.error e) none

/-! ## The construction of the controller and of the Mapper -/

/-- R171 after the bus was opened. -/
theorem works_constructOpened {P : Event → Prop} {addr : Byte} (freq : D6) (s : State)
    (mode : ∀ v a, P (.wr (devOf addr) Config.regMode v a))
    (prescale : ∀ v a, P (.wr (devOf addr) Config.regPrescale v a))
    (saved : ∀ got, P (.rd (devOf addr) Config.regMode got)) (settle : P (.delay .settleWake)) (closed : P .closed)
    (zeroes : Zeroes P (devOf addr)) (response : ∀ st, P (.resp st none)) :
    Works P (s.setDevAddr (devOf addr)) (constructOpened addr freq s) := by
  have fails (e : Error) (t : State) (address : t.block.devAddr = devOf addr) : Works P t (failFatally e t) :=
    (works_cleanup t closed (address ▸ zeroes)).trans (works_respond _ (response _))
  cases valid : prescaleValid s.params (d6Value freq) with
  | false =>
    rw [constructOpened_of_invalid valid]
    exact fails _ _ rfl
  | true =>
    rw [constructOpened_of_valid valid]
    refine (works_setFreq _ (d6Value freq)).trans ?_
    have init := works_initSequence ((s.setDevAddr (devOf addr)).setFreq (d6Value freq)) rfl mode prescale saved settle
    cases ran : initSequence ((s.setDevAddr (devOf addr)).setFreq (d6Value freq)) with
    | done _ t =>
      rw [ran] at init
      exact init.trans (works_respond _ (response .ok))
    | raised e t =>
      rw [ran] at init
      exact init.trans (fails e t init.address)

/-- R171 with a port claimed: the two theorems about the command say where it ends. -/
theorem transition_pwmConstruct {bus addr : Byte} {freq : D6} (fresh : s.block.ctlState = .uninitialized)
    (free : s.block.busOwner = .none) (present : bus.toNat < s.params.busCount) (drawn : s.env.nextOpen.1 = true)
    (ran : exec (.pwmConstruct bus addr freq) s = .next t) :
    ∃ b st, Transition (.pwmConstruct bus addr freq) s b ∧ t.block = { b with lastStatus := st } ∧
      b.busIndex = bus ∧ b.devAddr = devOf addr := by
  cases valid : prescaleValid s.params (d6Value freq) with
  | false =>
    obtain ⟨u, acks, -, ran', answered⟩ := exec_pwmConstruct_of_invalid fresh free present drawn valid
    obtain rfl := Host.Outcome.next.inj (ran.symm.trans ran')
    have failed : Transition (.pwmConstruct bus addr freq) s _ :=
      .constructFailed (f := s.block.freq) (prescale := s.block.prescale) (mode := s.block.savedMode) rfl fresh
    rw [← free] at failed
    exact ⟨_, _, failed, answered.block, rfl, rfl⟩
  | true =>
    obtain ⟨m, n, u, acks, -, -, -, ran', answered, -⟩ := exec_pwmConstruct_of_valid fresh free present drawn valid
    obtain rfl := Host.Outcome.next.inj (ran.symm.trans ran')
    refine ⟨_, _, ?_, answered.block, rfl, rfl⟩
    by_cases completed : n = 7
    · simp only [completed, if_true]
      exact .constructed rfl fresh present valid
    · simp only [completed, if_false]
      exact .constructFailed rfl fresh

theorem exec_pwmConstruct_meaning (bus addr : Byte) (freq : D6) (s : State) :
    ∃ t, exec (.pwmConstruct bus addr freq) s = .next t ∧ Meaning (.pwmConstruct bus addr freq) s t := by
  have emits (port : Byte) (dev : DevAddr) :
      Emits (Permitted (.pwmConstruct bus addr freq) s port dev) s (busOpen bus .pwc s).state :=
    emits_busOpen bus .pwc s (.silent rfl nofun) (.silent rfl nofun)
  by_cases fresh : s.block.ctlState = .uninitialized
  · by_cases unavailable : s.block.busOwner ≠ .none ∨ s.params.busCount ≤ bus.toNat ∨ s.env.nextOpen.1 = false
    · obtain ⟨t, opened, produced⟩ := busOpen_unavailable .pwc unavailable
      rw [opened] at emits
      have moved : Transition (.pwmConstruct bus addr freq) s t.block := produced.block ▸ .same nofun
      exact ⟨_, exec_pwmConstruct_of_raised fresh opened, .respond (emits _ _) moved _ none⟩
    · simp only [not_or, ne_eq, not_not, Nat.not_le, Bool.not_eq_false] at unavailable
      obtain ⟨free, present, drawn⟩ := unavailable
      obtain ⟨u, opened, -, -⟩ := busOpen_available .pwc free present drawn
      rw [opened] at emits
      have ran := exec_pwmConstruct_of_done (addr := addr) (freq := freq) fresh opened
      obtain ⟨b, st, moved, block, port, address⟩ := transition_pwmConstruct fresh free present drawn ran
      have claimed := (emits bus (devOf addr)).assign (u.setDevAddr (devOf addr)).block rfl
      have works := works_constructOpened (P := Permitted (.pwmConstruct bus addr freq) s bus (devOf addr)) freq u
        (fun _ _ => .setupWrite rfl free rfl rfl (.inl rfl)) (fun _ _ => .setupWrite rfl free rfl rfl (.inr (.inl rfl)))
        (fun _ => .setupRead rfl free rfl) (.silent rfl nofun) permitted_closed
        (fun _ channel _ => .setupWrite rfl free rfl rfl (.inr (.inr ⟨channel, rfl⟩))) (permitted_resp · none)
      refine ⟨_, ran, ⟨?_, b, st, moved, block⟩⟩
      rw [block, port, address]
      exact claimed.trans works
  · exact ⟨_, congrArg Host.Outcome.next (if_pos fresh), .refused (by simp) _⟩

theorem execMapConstruct_meaning (sCh : Byte) (sCenter sHalf : D6) (tCh : Byte) (tCenter tHalf : D6) (s : State) :
    ∃ t, execMapConstruct sCh sCenter sHalf tCh tCenter tHalf s = .next t ∧
      Meaning (.mapConstruct sCh sCenter sHalf tCh tCenter tHalf) s t := by
  refine ⟨_, rfl, meaning_ite (by simp) _ fun ready => meaning_ite (by simp) _ fun channels =>
    meaning_ite (by simp) _ fun valid => ?_⟩
  obtain ⟨fresh, awake⟩ : s.block.mapState = .unconstructed ∧ s.block.ctlState = .awake := by
    simpa only [not_or, ne_eq, not_not] using ready
  have inRange : sCh.toNat ≤ 15 ∧ tCh.toNat ≤ 15 := by omega
  rw [← Ran.andThen_assoc]
  generalize stored : (s.setCal .steering ⟨sCh, d6Value sCenter, d6Value sHalf⟩).setCal .throttle
    ⟨tCh, d6Value tCenter, d6Value tHalf⟩ = u
  have block : u.block = { s.block with
      calSteering := ⟨sCh, d6Value sCenter, d6Value sHalf⟩, calThrottle := ⟨tCh, d6Value tCenter, d6Value tHalf⟩ } :=
    stored ▸ rfl
  have same : ((setAxis .steering 0 u).andThen fun _ t => setAxis .throttle 0 t).state.block = u.block :=
    Ran.andThen_keeps State.block (setAxis_state_block .steering 0 u) fun _ t => setAxis_state_block .throttle 0 t
  have works (port : Byte) (dev : DevAddr) :
      Works (Permitted (.mapConstruct sCh sCenter sHalf tCh tCenter tHalf) s port dev) s
        ((setAxis .steering 0 u).andThen fun _ t => setAxis .throttle 0 t).state := by
    have recorded := (works_setCal s .steering ⟨sCh, d6Value sCenter, d6Value sHalf⟩).trans
      (works_setCal _ .throttle ⟨tCh, d6Value tCenter, d6Value tHalf⟩)
      (P := Permitted (.mapConstruct sCh sCenter sHalf tCh tCenter tHalf) s port dev)
    rw [stored] at recorded
    refine recorded.trans ((works_setAxis 0 u ?_).andThen_of_block (setAxis_state_block .steering 0 u) fun t kept =>
      works_setAxis 0 t ?_)
    · rw [block]
      exact permitted_drives (.head _) awake
    · rw [kept, block]
      exact permitted_drives (.tail _ (.head _)) awake
  generalize (setAxis .steering 0 u).andThen (fun _ t => setAxis .throttle 0 t) = r at same works
  cases r with
  | done _ t =>
    have moved : Transition (.mapConstruct sCh sCenter sHalf tCh tCenter tHalf) s (t.setMap .active).block := by
      rw [setMap_block, show t.block = _ from same, block]
      exact .mapperConstructed rfl awake inRange (not_not.mp valid)
    exact .respond ((works _ _).trans (works_setMap t .active)).toEmits moved .ok none
  | raised e t =>
    have moved : Transition (.mapConstruct sCh sCenter sHalf tCh tCenter tHalf) s (cleanup t).block := by
      rw [cleanup_block, show t.block = _ from same, block]
      exact .mapperFailed rfl awake fresh
    refine .respond ((works _ _).trans (works_cleanup t permitted_closed ?_)).toEmits moved (.error e) none
    rw [show t.block = _ from same, block]
    exact permitted_zeroes (by simp [Instr.opcode]) awake

/-! ## MAP_SHUTDOWN and all the commands -/

theorem permitted_mayShutDown {port : Byte} {dev : DevAddr} (active : s.block.mapState = .active)
    (awake : s.block.ctlState = .awake) : MayShutDown (Permitted .mapShutdown s port dev) s.block where
  drives a := match a with
    | .steering => permitted_drives (.tail _ (.head _)) awake
    | .throttle => permitted_drives (.head _) awake
  neutral := .neutral rfl active
  zeroes := permitted_zeroes (by simp [Instr.opcode]) awake
  closed := permitted_closed

theorem execMapShutdown_meaning (s : State) : ∃ t, execMapShutdown s = .next t ∧ Meaning .mapShutdown s t := by
  refine ⟨_, rfl, ?_⟩
  split
  · next shut => exact .respond (Works.refl s).toEmits (.same fun _ => by simp [shut]) .ok none
  · next fresh => exact .refused (fun _ => by simp [fresh]) _
  · next active =>
    exact .respond (works_shutdownBody s (permitted_mayShutDown active)).toEmits
      (.shutDown rfl active (shutdownBody_block s)) _ none

/-- Every command, in every state. -/
theorem exec_meaning (i : Instr) (s : State) : ∃ t, exec i s = .next t ∧ Meaning i s t := by
  cases i with
  | busOpen bus => exact ⟨_, rfl, meaning_busOpen bus s⟩
  | busWrite addr reg val =>
    exact ⟨_, rfl, meaning_ite (by simp) _ fun owner => .answer (by simp) (memWrite_state_block _ _ _ s) fun _ _ =>
      works_memWrite s fun _ => .rawWrite rfl (not_not.mp owner)⟩
  | busRead addr reg => exact execBusRead_meaning addr reg s
  | busClose =>
    exact ⟨_, rfl, meaning_ite (by simp) _ fun owner => .respond (works_busClose s permitted_closed).toEmits
      (.hostClosed rfl (not_not.mp owner)) .ok none⟩
  | pwmConstruct bus addr freq => exact exec_pwmConstruct_meaning bus addr freq s
  | pwmSetTicks ch on off =>
    exact ⟨_, rfl, meaning_ite (by simp) _ fun awake =>
      .answer (by simp) (setChannelTicks_state_block _ _ _ s) fun _ _ =>
        works_setChannelTicks s fun valid _ written _ => .ticks rfl (not_not.mp awake) valid written⟩
  | pwmSetPulse ch pulse =>
    exact ⟨_, rfl, meaning_ite (by simp) _ fun awake => .answer (by simp) (setPulseWidth_state_block _ _ s) fun _ _ =>
      works_setPulseWidth _ s (permitted_drives (.head _) (not_not.mp awake))⟩
  | pwmStopAll =>
    exact ⟨_, rfl, meaning_ite (by simp) _ fun awake => .answer (by simp) (stopAllChannels_state_block s) fun _ _ =>
      works_stopAllChannels s (permitted_zeroes (by simp [Instr.opcode]) (not_not.mp awake))⟩
  | pwmClose =>
    exact ⟨_, rfl, meaning_ite (by simp) _ fun awake => .respond
      ((works_busClose s permitted_closed).trans (works_setCtl _ .closed)).toEmits
      (.controllerClosed rfl (not_not.mp awake)) .ok none⟩
  | mapConstruct => exact execMapConstruct_meaning _ _ _ _ _ _ s
  | mapSetSteering cmd =>
    exact ⟨_, rfl, meaning_axisCommand (by simp) (setAxis_state_block _ _ s) fun awake _ _ =>
      works_setAxis _ s (permitted_drives (.head _) awake)⟩
  | mapSetThrottle cmd =>
    exact ⟨_, rfl, meaning_axisCommand (by simp) (setAxis_state_block _ _ s) fun awake _ _ =>
      works_setAxis _ s (permitted_drives (.head _) awake)⟩
  | mapRecalCenter axis center =>
    exact ⟨_, rfl, meaning_ite (by simp) _ fun active => meaning_ite (by simp) _ fun valid => .respond
      (works_setCal s _ _).toEmits (.recalibrated rfl (not_not.mp active) (not_not.mp valid)) .ok none⟩
  | mapStop =>
    exact ⟨_, rfl, meaning_axisCommand (by simp) (stopAxes_state_block s) fun awake _ _ =>
      works_stopAxes s fun
        | .steering => permitted_drives (.tail _ (.head _)) awake
        | .throttle => permitted_drives (.head _) awake⟩
  | mapShutdown => exact execMapShutdown_meaning s

theorem meaning_of_exec (ran : exec i s = .next t) : Meaning i s t := by
  obtain ⟨u, ran', meaning⟩ := exec_meaning i s
  rwa [Host.Outcome.next.inj (ran.symm.trans ran')]

end

end Sys2Proof.Machine
end

section
/-! Statements about all commands: ownership of the bus, the controller's transitions, the address map, and the frame
over the accepted bytes. -/

namespace Sys2Proof.Machine

/-! ## Ownership (R131) -/

theorem isRaw_of_driven {i : Instr} {b : Block} {c : Byte} (driven : c ∈ drivenChannels i b) : isRaw i = false := by
  cases i with
  | busOpen | busWrite | busRead | busClose => cases driven
  | _ => rfl

theorem isRaw_of_stops {i : Instr} (stops : i.opcode ∈ [.pwmStopAll, .mapConstruct, .mapShutdown]) :
    isRaw i = false := by
  cases i with
  | busOpen | busWrite | busRead | busClose => exact absurd stops (by simp [Instr.opcode])
  | _ => rfl

/-- The commands that drive a channel claim no port. -/
theorem other_of_driven {i : Instr} {b : Block} {c : Byte} (driven : c ∈ drivenChannels i b) :
    i.opcode ≠ .busOpen ∧ i.opcode ≠ .pwmConstruct := by
  cases i with
  | busOpen | pwmConstruct => cases driven
  | _ => simp [Instr.opcode]

/-- Only the owner of the handle, or the command that claims it, does a transaction. -/
theorem Permitted.ownership {i : Instr} {s : State} {port : Byte} {dev : DevAddr} {e : Event}
    (permitted : Permitted i s port dev e) (transaction : e.isTransaction = true) :
    isRaw i = true ∧ s.block.busOwner = .host ∨
      isRaw i = false ∧ (s.block.ctlState = .awake ∨ s.block.busOwner = .none) := by
  cases permitted with
  | silent silent => exact absurd transaction (by simp [silent])
  | neutral => cases transaction
  | rawWrite command owner => exact .inl ⟨command ▸ rfl, owner⟩
  | rawRead command owner => exact .inl ⟨command ▸ rfl, owner⟩
  | ticks command awake => exact .inr ⟨command ▸ rfl, .inl awake⟩
  | drive driven awake => exact .inr ⟨isRaw_of_driven driven, .inl awake⟩
  | zero stops awake => exact .inr ⟨isRaw_of_stops stops, .inl awake⟩
  | setupWrite command free => exact .inr ⟨command ▸ rfl, .inr free⟩
  | setupRead command free => exact .inr ⟨command ▸ rfl, .inr free⟩

/-- Events without a transaction leave the accepted bytes and the wires alone. -/
theorem Emits.without_transactions {P : Event → Prop} {s t : State} (emits : Emits P s t)
    (silent : ∀ e, P e → e.isTransaction = false) :
    (∃ evs, t.trace = s.trace ++ evs ∧ ∀ e ∈ evs, e.isTransaction = false) ∧ t.mem = s.mem ∧ t.wire = s.wire := by
  obtain ⟨evs, produced, holds⟩ := emits.run
  have silent (e : Event) (mem : e ∈ evs) : e.isTransaction = false := silent e (holds e mem)
  refine ⟨⟨evs, produced.trace, silent⟩, ?_, ?_⟩
  · rw [produced.mem]
    clear holds produced
    induction evs with
    | nil => rfl
    | cons e rest ih =>
      obtain ⟨head, tail⟩ := List.forall_mem_cons.mp silent
      cases e with
      | wr => cases head
      | _ => exact ih tail
  · have count : evs.countP Event.isTransaction = 0 :=
      List.countP_eq_zero.mpr fun e mem => by simp [silent e mem]
    exact (emits.frames.eq_of_length (by rw [produced.wire, count, Nat.add_zero])).symm

/-- Settles O26 (R131, R247): a transaction needs the handle on the command's side, and the invariant gives an awake
controller the handle. -/
theorem onlyTheOwnerReachesTheBus : Obligations.OnlyTheOwnerReachesTheBus := by
  unfold Obligations.OnlyTheOwnerReachesTheBus
  intro i s t inv ran kept_out
  refine (meaning_of_exec ran).emits.without_transactions fun e permitted => ?_
  by_contra transaction
  have owner := permitted.ownership (by simpa using transaction)
  have awake := inv.owned
  obtain ⟨raw, other⟩ | ⟨raw, host⟩ := kept_out
  · simp [raw, other] at owner
  · simp [raw, host] at owner awake
    exact awake owner

/-- R170, R200 and the state tests of R201: behind a host handle the controller is not awake. -/
theorem controllerCommand_refused {i : Instr} {s : State} (raw : isRaw i = false) (construct : i.opcode ≠ .pwmConstruct)
    (shutdown : i.opcode ≠ .mapShutdown) (recal : i.opcode ≠ .mapRecalCenter) (notAwake : s.block.ctlState ≠ .awake) :
    Refuses i s .invalidState := by
  cases i with
  | pwmSetTicks | pwmSetPulse | pwmStopAll | pwmClose => exact awakeCommand_refused (by simp [Instr.opcode]) notAwake
  | mapSetSteering | mapSetThrottle | mapStop => exact axisCommand_refused (by simp [Instr.opcode]) notAwake
  | mapConstruct => exact failWith_refuses (exec_mapConstruct_of_not_ready (.inr notAwake))
  | pwmConstruct => exact absurd rfl construct
  | mapShutdown => exact absurd rfl shutdown
  | mapRecalCenter => exact absurd rfl recal
  | busOpen | busWrite | busRead | busClose => cases raw

/-- R205 in every state: at most the two records change. -/
theorem mapRecalCenter_answered (s : State) (axis : Byte) (center : D6) :
    ∃ t st cal₀ cal₁, exec (.mapRecalCenter axis center) s = .next t ∧ t.wire = s.wire ∧ t.env = s.env ∧
      Answered s t [] st { s.block with calSteering := cal₀, calThrottle := cal₁ } := by
  obtain ⟨inactive, invalid, valid⟩ := mapRecalCenter_cases s axis center
  have refused {e : Error} : Refuses (.mapRecalCenter axis center) s e → ∃ t st cal₀ cal₁,
      exec (.mapRecalCenter axis center) s = .next t ∧ t.wire = s.wire ∧ t.env = s.env ∧
        Answered s t [] st { s.block with calSteering := cal₀, calThrottle := cal₁ } :=
    fun ⟨t, ran, answered, wire, env⟩ => ⟨t, _, s.block.calSteering, s.block.calThrottle, ran, wire, env, answered⟩
  by_cases active : s.block.mapState = .active
  · by_cases legal : calibrationValid s.params (d6Value center) (s.block.cal (axisOf axis)).half = true
    · obtain ⟨t, ran, wire, env, answered⟩ := valid active legal
      refine ⟨t, .ok, t.block.calSteering, t.block.calThrottle, ran, wire, env, ?_⟩
      rw [answered.block]
      cases which : axisOf axis <;> rw [which] at answered <;> exact answered
    · exact refused (invalid active legal)
  · exact refused (inactive active)

theorem exec_mapShutdown_of_shutDown {s : State} (shut : s.block.mapState = .shutDown) :
    exec .mapShutdown s = .next (s.respond .ok none) := by
  simp only [exec, execMapShutdown, shut]

theorem exec_mapShutdown_of_unconstructed {s : State} (fresh : s.block.mapState = .unconstructed) :
    exec .mapShutdown s = .next (failWith .invalidState s) := by
  simp only [exec, execMapShutdown, fresh]

theorem exec_mapShutdown_of_active {s : State} (active : s.block.mapState = .active) :
    exec .mapShutdown s = .next ((shutdownBody s).2.respond (shutdownBody s).1 none) := by
  simp only [exec, execMapShutdown, active]

/-- R208 behind a closed controller: only map_state changes. -/
theorem mapShutdown_behind {s : State} (active : s.block.mapState = .active) (notAwake : s.block.ctlState ≠ .awake) :
    ∃ t, exec .mapShutdown s = .next t ∧
      Answered s t [] (.error .invalidState) { s.block with mapState := .shutDown } ∧ t.env = s.env := by
  have ran := exec_mapShutdown_of_active active
  rw [shutdownBody_closed notAwake] at ran
  exact ⟨_, ran, ((Produced.refl s).withBlock { s.block with mapState := .shutDown } rfl).respond _ none, rfl⟩

/-- Settles O27: under the invariant each side's own state tests keep it out while the other holds the handle. -/
theorem otherSideIsKeptOutWhileTheHandleIsHeld : Obligations.OtherSideIsKeptOutWhileTheHandleIsHeld := by
  unfold Obligations.OtherSideIsKeptOutWhileTheHandleIsHeld
  intro s inv
  refine ⟨fun pwc => ?_, fun host => ?_⟩
  · have other : s.block.busOwner ≠ .host := by simp [pwc]
    refine ⟨fun addr reg v => ?_, fun addr reg => ?_, ?_, fun bus => ?_⟩
    · exact rawCommand_refused rfl (by simp [Instr.opcode]) other
    · exact rawCommand_refused rfl (by simp [Instr.opcode]) other
    · exact rawCommand_refused rfl (by simp [Instr.opcode]) other
    · have held : s.block.busOwner ≠ .none := by simp [pwc]
      obtain ⟨t, failed, produced⟩ := busOpen_unavailable (b := bus) .host (.inl held)
      exact ⟨_, by rw [exec_busOpen, failed], answered_raised produced⟩
  · have notAwake : s.block.ctlState ≠ .awake := fun awake => by simpa [host] using inv.owned.mpr awake
    refine ⟨fun i raw construct shutdown recal => controllerCommand_refused raw construct shutdown recal notAwake,
      fun axis center => ⟨(mapRecalCenter_cases s axis center).1, mapRecalCenter_answered s axis center⟩,
      fun bus addr freq => ⟨pwmConstruct_refused bus addr freq, fun fresh => ?_⟩, fun standing => ?_, fun shut => ?_⟩
    · have held : s.block.busOwner ≠ .none := by simp [host]
      obtain ⟨t, failed, produced⟩ := busOpen_unavailable (b := bus) .pwc (.inl held)
      exact ⟨_, exec_pwmConstruct_of_raised fresh failed, answered_raised produced⟩
    · by_cases active : s.block.mapState = .active
      · obtain ⟨t, ran, answered, -⟩ := mapShutdown_behind active notAwake
        rw [if_pos active]
        exact ⟨t, ran, answered⟩
      · have fresh : s.block.mapState = .unconstructed := by
          cases state : s.block.mapState with
          | unconstructed => rfl
          | active => exact absurd state active
          | shutDown => exact absurd state standing
        rw [if_neg active]
        exact ⟨_, exec_mapShutdown_of_unconstructed fresh, (Produced.refl s).respond _ none⟩
    · exact ⟨_, exec_mapShutdown_of_shutDown shut, (Produced.refl s).respond _ none⟩

/-! ## The controller's transitions (R23) -/

theorem ctlState_of_cleaned {b : Block} (changed : b.cleaned.ctlState ≠ b.ctlState) : b.cleaned.ctlState = .closed := by
  unfold Block.cleaned at changed ⊢
  split
  · rfl
  · next other => exact absurd rfl (if_neg other ▸ changed)

/-- Settles O36 (R23): the list of transitions, each with its own state test. -/
theorem controllerTransitionsAreTheListedOnes : Obligations.ControllerTransitionsAreTheListedOnes := by
  unfold Obligations.ControllerTransitionsAreTheListedOnes
  intro i s t _ ran changed
  obtain ⟨b, st, moved, block⟩ := (meaning_of_exec ran).block
  rw [block] at changed ⊢
  cases moved with
  | same | hostOpened | hostClosed | mapperConstructed => exact absurd rfl changed
  | recalibrated => exact absurd (by cases axisOf _ <;> rfl) changed
  | constructed command fresh => exact .inl ⟨fresh, command ▸ rfl, .inl rfl⟩
  | constructFailed command fresh => exact .inl ⟨fresh, command ▸ rfl, .inr rfl⟩
  | controllerClosed command awake => exact .inr ⟨awake, rfl, .inl command⟩
  | mapperFailed command awake => exact .inr ⟨awake, ctlState_of_cleaned changed, .inr (.inr command)⟩
  | shutDown command active reached =>
    cases reached with
    | behind => exact absurd rfl changed
    | completed awake => exact .inr ⟨awake, rfl, .inr (.inl command)⟩
    | failed awake => exact .inr ⟨awake, ctlState_of_cleaned changed, .inr (.inl command)⟩

/-! ## The address map (R62, R70, R73) -/

/-- What may be written to a register of a channel; the last clause is for commands whose ON value is 0. -/
def ChannelByte (zeroOn : Prop) (reg v : Byte) : Prop :=
  0x06 ≤ reg.toNat ∧ reg.toNat ≤ 0x45 ∧ ((reg.toNat - 6) % 2 = 1 → v.toNat < 16) ∧
    ((reg.toNat - 6) % 4 < 2 → zeroOn → v = 0x00#8)

theorem channelByte_tickPairWrites {c : Byte} {on off : Tick} (valid : c.toNat ≤ 15) {w : Byte × Byte}
    (written : w ∈ tickPairWrites c on off) : ChannelByte (on = 0#12) w.1 w.2 := by
  have address (k : Nat) (offset : k ≤ 3) := baseReg_add_toNat valid offset
  have base := baseReg_toNat valid
  have a₁ : (baseReg c + 1#8).toNat = _ := address 1 (by omega)
  have a₂ : (baseReg c + 2#8).toNat = _ := address 2 (by omega)
  have a₃ : (baseReg c + 3#8).toNat = _ := address 3 (by omega)
  have nibble (t : Tick) : (tickHigh t).toNat < 16 := by
    have fits := t.isLt
    rw [tickHigh_toNat]
    omega
  simp only [tickPairWrites, List.mem_cons, List.not_mem_nil, or_false] at written
  unfold ChannelByte
  obtain rfl | rfl | rfl | rfl := written <;> dsimp only
  · exact ⟨by omega, by omega, fun odd => by omega, fun _ zero => by rw [zero]; rfl⟩
  · exact ⟨by omega, by omega, fun _ => nibble on, fun _ zero => by rw [zero]; rfl⟩
  · exact ⟨by omega, by omega, fun odd => by omega, fun low => by omega⟩
  · exact ⟨by omega, by omega, fun _ => nibble off, fun low => by omega⟩

theorem channelByte_zero {reg : Byte} (channel : reg ∈ allChannels.flatMap channelRegs) (zeroOn : Prop) :
    ChannelByte zeroOn reg 0x00#8 := by
  rw [channelRegs_all] at channel
  obtain ⟨k, range, rfl⟩ := List.mem_map.mp channel
  have bound := List.mem_range.mp range
  have address : (BitVec.ofNat 8 (6 + k)).toNat = 6 + k := by
    rw [BitVec.toNat_ofNat]
    omega
  exact ⟨by omega, by omega, fun _ => by decide, fun _ _ => rfl⟩

/-- The clause of the address map about one write. -/
def MappedWrite (i : Instr) (dev : DevAddr) (e : Event) : Prop :=
  ∀ d reg v a, e = .wr d reg v a → d = dev ∧
    (reg = 0x00#8 ∨ reg = 0xFE#8 ∨ (0x06 ≤ reg.toNat ∧ reg.toNat ≤ 0x45)) ∧
    (0x06 ≤ reg.toNat → reg.toNat ≤ 0x45 →
      ((reg.toNat - 6) % 2 = 1 → v.toNat < 16) ∧
      ((reg.toNat - 6) % 4 < 2 → i.opcode ≠ .pwmSetTicks → v = 0x00#8))

theorem mappedWrite_of_channelByte {i : Instr} {d dev : DevAddr} {reg v : Byte} {a : Ack} (same : d = dev)
    (byte : ChannelByte (i.opcode ≠ .pwmSetTicks) reg v) : MappedWrite i dev (.wr d reg v a) := by
  rintro _ _ _ _ ⟨⟩
  obtain ⟨low, high, nibble, on⟩ := byte
  exact ⟨same, .inr (.inr ⟨low, high⟩), fun _ _ => ⟨nibble, on⟩⟩

/-- R62, R70, R73: the writes of the controller's and the Mapper's commands, and the reads. -/
theorem Permitted.mapped {i : Instr} {s : State} {port : Byte} {dev : DevAddr} {e : Event}
    (permitted : Permitted i s port dev e) (raw : isRaw i = false)
    (kept : i.opcode ≠ .pwmConstruct → dev = s.block.devAddr) :
    MappedWrite i dev e ∧ ∀ d reg got, e = .rd d reg got → d = dev ∧ reg = 0x00#8 := by
  cases permitted with
  | silent silent =>
    refine ⟨fun d reg v a written => ?_, fun d reg got read => ?_⟩
    · cases written ▸ silent
    · cases read ▸ silent
  | neutral => exact ⟨nofun, nofun⟩
  | rawWrite command => cases command ▸ raw
  | rawRead command => cases command ▸ raw
  | ticks command awake valid written =>
    subst command
    refine ⟨mappedWrite_of_channelByte (kept (by simp [Instr.opcode])).symm ?_, nofun⟩
    obtain ⟨low, high, nibble, -⟩ := channelByte_tickPairWrites valid written
    exact ⟨low, high, nibble, fun _ other => absurd rfl other⟩
  | drive driven awake valid written =>
    obtain ⟨-, other⟩ := other_of_driven driven
    refine ⟨mappedWrite_of_channelByte (kept other).symm ?_, nofun⟩
    obtain ⟨low, high, nibble, on⟩ := channelByte_tickPairWrites valid written
    exact ⟨low, high, nibble, fun first _ => on first rfl⟩
  | zero stops awake channel =>
    have other : i.opcode ≠ .pwmConstruct := fun command => by simp [command] at stops
    exact ⟨mappedWrite_of_channelByte (kept other).symm (channelByte_zero channel _), nofun⟩
  | setupWrite command free onPort toDevice mapped =>
    refine ⟨?_, nofun⟩
    obtain rfl | rfl | ⟨channel, rfl⟩ := mapped
    · rintro _ _ _ _ ⟨⟩
      exact ⟨toDevice.symm, .inl rfl, fun low => absurd low (by decide)⟩
    · rintro _ _ _ _ ⟨⟩
      exact ⟨toDevice.symm, .inr (.inl rfl), fun _ high => absurd high (by decide)⟩
    · exact mappedWrite_of_channelByte toDevice.symm (channelByte_zero channel _)
  | setupRead command free toDevice =>
    refine ⟨nofun, ?_⟩
    rintro _ _ _ ⟨⟩
    exact ⟨toDevice.symm, rfl⟩

/-- Settles O37 (R37 b, R62, R70, R73). -/
theorem pwcWritesOnlyMappedRegisters : Obligations.PwcWritesOnlyMappedRegisters := by
  unfold Obligations.PwcWritesOnlyMappedRegisters
  intro i s t raw ran
  obtain ⟨evs, produced, permitted⟩ := (meaning_of_exec ran).emits.run
  refine ⟨evs, produced.trace, fun e mem => (permitted e mem).mapped raw fun other => ?_⟩
  exact congrArg (fun setup => setup.2.2) (exec_keeps_setup ran (.inl other))

/-! ## The frame over the accepted bytes (log entry 13) -/

/-- The port stays but for the two commands that claim one. -/
theorem exec_port {i : Instr} {s t : State} (ran : exec i s = .next t)
    (other : i.opcode ≠ .busOpen ∧ i.opcode ≠ .pwmConstruct) : t.block.busIndex = s.block.busIndex := by
  obtain ⟨notOpen, notConstruct⟩ := other
  obtain ⟨b, st, moved, block⟩ := (meaning_of_exec ran).block
  have cleaned (b : Block) : b.cleaned.busIndex = b.busIndex := by unfold Block.cleaned; split <;> rfl
  rw [block]
  cases moved with
  | same | hostClosed | controllerClosed | mapperConstructed => rfl
  | mapperFailed => exact cleaned _
  | recalibrated => exact setCal_busIndex _ _ _
  | hostOpened command => exact absurd (command ▸ rfl) notOpen
  | constructed command => exact absurd (command ▸ rfl) notConstruct
  | constructFailed command => exact absurd (command ▸ rfl) notConstruct
  | shutDown command active reached =>
    cases reached with
    | behind | completed => rfl
    | failed => exact cleaned _

theorem fst_mem_channelRegs {c : Byte} {on off : Tick} {w : Byte × Byte} (written : w ∈ tickPairWrites c on off) :
    w.1 ∈ channelRegs c := List.mem_map_of_mem (f := Prod.fst) written

/-- The registers of a driven channel are among the stored locations. -/
theorem driven_mem_storedLocations {i : Instr} {s : State} {c reg : Byte} (driven : c ∈ drivenChannels i s.block)
    (channel : reg ∈ channelRegs c) : location s.block.busIndex s.block.devAddr reg ∈ storedLocations i s := by
  cases i with
  | pwmSetPulse | mapSetSteering | mapSetThrottle =>
    obtain rfl := List.mem_singleton.mp driven
    exact List.mem_map_of_mem channel
  | mapConstruct sCh sCenter sHalf tCh tCenter tHalf =>
    refine List.mem_map_of_mem (List.mem_append_left _ ?_)
    obtain rfl | rfl := List.mem_pair.mp driven
    · exact List.mem_append_left _ channel
    · exact List.mem_append_right _ channel
  | mapStop =>
    obtain rfl | rfl := List.mem_pair.mp driven
    · exact List.mem_map_of_mem (List.mem_append_left _ channel)
    · exact List.mem_map_of_mem (List.mem_append_right _ channel)
  | mapShutdown =>
    refine List.mem_map_of_mem (List.mem_append_left _ ?_)
    obtain rfl | rfl := List.mem_pair.mp driven
    · exact List.mem_append_left _ channel
    · exact List.mem_append_right _ channel
  | _ => cases driven

/-- Every permitted write is at a stored location. -/
theorem Permitted.location_mem {i : Instr} {s : State} {port : Byte} {dev d : DevAddr} {reg v : Byte} {a : Ack}
    (permitted : Permitted i s port dev (.wr d reg v a))
    (kept : i.opcode ≠ .busOpen ∧ i.opcode ≠ .pwmConstruct → port = s.block.busIndex) :
    location port d reg ∈ storedLocations i s := by
  cases permitted with
  | silent silent => cases silent
  | rawWrite command =>
    subst command
    rw [kept (by simp [Instr.opcode])]
    exact List.mem_singleton.mpr rfl
  | ticks command awake valid written =>
    subst command
    rw [kept (by simp [Instr.opcode])]
    exact List.mem_map_of_mem (fst_mem_channelRegs written)
  | drive driven awake valid written =>
    rw [kept (other_of_driven driven)]
    exact driven_mem_storedLocations driven (fst_mem_channelRegs written)
  | zero stops awake channel =>
    have other : i.opcode ≠ .busOpen ∧ i.opcode ≠ .pwmConstruct :=
      ⟨fun command => by simp [command] at stops, fun command => by simp [command] at stops⟩
    rw [kept other]
    cases i with
    | pwmStopAll => exact List.mem_map_of_mem channel
    | mapConstruct | mapShutdown => exact List.mem_map_of_mem (List.mem_append_right _ channel)
    | _ => exact absurd stops (by simp [Instr.opcode])
  | setupWrite command free onPort toDevice mapped =>
    subst command onPort
    refine List.mem_map_of_mem (f := location _ _) ?_
    obtain rfl | rfl | ⟨channel, -⟩ := mapped
    · exact .head _
    · exact .tail _ (.head _)
    · exact .tail _ (.tail _ channel)

/-- Settles O47 (R62, R70). -/
theorem commandsLeaveOtherBytesAlone : Obligations.CommandsLeaveOtherBytesAlone := by
  unfold Obligations.CommandsLeaveOtherBytesAlone
  intro i s t a ran outside
  obtain ⟨evs, produced, permitted⟩ := (meaning_of_exec ran).emits.run
  rw [produced.mem]
  refine replay_read_other _ _ _ _ fun dev reg v mem stored => outside ?_
  rw [stored]
  exact (permitted _ mem).location_mem (exec_port ran)

end Sys2Proof.Machine
end

section
/-! Statements about every step: what a step appends, the abort latch, the shutdown's one wait, the faults, and the
invariant between commands. -/

namespace Sys2Proof.Machine

/-! ## The abort service (R241) -/

/-- The block's record when the service starts to act. -/
def State.serving (s : State) : State := { s with block := { s.block with abortPending := false, abortTaken := true } }

/-- R241 for an abort that was taken already. -/
theorem abortService_taken {s : State} (taken : s.block.abortTaken = true) :
    abortService s = { s with block := { s.block with abortPending := false } } := by
  simp only [abortService, taken, if_true]

/-- R241 with an active Mapper. -/
theorem abortService_active {s : State} (first : s.block.abortTaken = false) (active : s.block.mapState = .active) :
    abortService s = (shutdownBody s.serving).2.abortServed (shutdownBody s.serving).1 := by
  simp only [abortService, first, active, Bool.false_eq_true, if_false, if_true]
  rfl

/-- R241 without one: the cleanup, which does nothing where the controller holds no handle. -/
theorem abortService_inactive {s : State} (first : s.block.abortTaken = false) (inactive : s.block.mapState ≠ .active) :
    abortService s = (cleanup s.serving).abortServed .ok := by
  simp only [abortService, first, inactive, Bool.false_eq_true, if_false]
  split
  · rfl
  · next other =>
    rw [cleanup_other s.serving other]
    rfl

/-- The events of a step: the neutral wait only where the Mapper is active, and not in a second abort service. -/
def StepEvent (s : State) (e : Event) : Prop :=
  e = .delay .settleNeutral → s.block.mapState = .active ∧ (s.block.abortPending = true → s.block.abortTaken = false)

theorem works_abortService (s : State) : Works (StepEvent s) s (abortService s) := by
  have latched (pending taken : Bool) :
      Works (StepEvent s) s { s with block := { s.block with abortPending := pending, abortTaken := taken } } :=
    .assign _ rfl rfl
  cases first : s.block.abortTaken with
  | true =>
    rw [abortService_taken first]
    exact latched false s.block.abortTaken
  | false =>
    by_cases active : s.block.mapState = .active
    · have may : MayShutDown (StepEvent s) s.serving.block :=
        ⟨fun _ _ _ _ _ _ => nofun, fun _ => ⟨active, fun _ => first⟩, fun _ _ _ => nofun, nofun⟩
      rw [abortService_active first active]
      exact ((latched false true).trans (works_shutdownBody s.serving fun _ => may)).trans (works_abortServed _ nofun)
    · rw [abortService_inactive first active]
      exact ((latched false true).trans (works_cleanup s.serving nofun fun _ _ _ => nofun)).trans
        (works_abortServed _ nofun)

/-! ## What a step appends (20_memory.md section 6) -/

theorem Emits.mono {P R : Event → Prop} {s t : State} (emits : Emits P s t) (weaker : ∀ e, P e → R e) :
    Emits R s t := by
  obtain ⟨evs, produced, holds⟩ := emits.run
  exact ⟨⟨evs, produced, fun e mem => weaker e (holds e mem)⟩, emits.frames, emits.device⟩

/-- Every step, once its input is taken. -/
theorem step_emits {s t : State} (ran : step s = .next t) :
    ∃ inputs, Emits (StepEvent s) { s with inputs := inputs } t := by
  cases stepsTo_of_step ran with
  | service pending => exact ⟨s.inputs, (works_abortService s).toEmits⟩
  | wait idle empty => exact ⟨s.inputs, (Works.refl s).toEmits⟩
  | @command _ rest i _ idle offered decoded ran =>
    refine ⟨rest, (meaning_of_exec ran).emits.mono fun e permitted neutral => ?_⟩
    subst neutral
    cases permitted with
    | silent silent other => exact absurd rfl other
    | neutral command active => exact ⟨active, by simp [idle]⟩
  | @illegal _ rest e idle offered undecodable => exact ⟨rest, (works_respond _ nofun).toEmits⟩
  | @abort rest idle offered =>
    exact ⟨rest, (Works.assign (s := { s with inputs := rest }) { s.block with abortPending := true } rfl rfl).toEmits⟩
  | @reset rest idle offered => exact ⟨rest, .of_event .reset nofun rfl rfl rfl rfl rfl rfl rfl⟩
  | @foreignMaster rest idle offered free => exact ⟨rest, (Works.refl _).toEmits⟩

/-- Settles O46 (R76, R69). -/
theorem stepOnlyAppendsEvents : Obligations.StepOnlyAppendsEvents := by
  unfold Obligations.StepOnlyAppendsEvents
  intro s t ran
  obtain ⟨inputs, emits⟩ := step_emits ran
  obtain ⟨evs, produced, -⟩ := emits.run
  exact ⟨evs, produced.trace, produced.mem, produced.wire, produced.params⟩

/-! ## The abort latch (R240, R241) -/

/-- `abort_pending` and `abort_taken`. -/
def Block.latch (b : Block) : Bool × Bool := (b.abortPending, b.abortTaken)

theorem cleaned_latch (b : Block) : b.cleaned.latch = b.latch := by
  unfold Block.cleaned
  split <;> rfl

theorem ShutDownTo.latch {b b' : Block} (reached : ShutDownTo b b') : b'.latch = b.latch := by
  cases reached with
  | behind | completed => rfl
  | failed => exact cleaned_latch _

theorem Transition.latch {i : Instr} {s : State} {b : Block} (moved : Transition i s b) : b.latch = s.block.latch := by
  cases moved with
  | mapperFailed => exact cleaned_latch _
  | recalibrated => cases axisOf _ <;> rfl
  | shutDown command active reached => exact reached.latch
  | _ => rfl

theorem exec_latch {i : Instr} {s t : State} (ran : exec i s = .next t) : t.block.latch = s.block.latch := by
  obtain ⟨b, st, moved, block⟩ := (meaning_of_exec ran).block
  rw [block]
  exact moved.latch

theorem abortService_latch (s : State) : (abortService s).block.latch = (false, true) := by
  cases first : s.block.abortTaken with
  | true =>
    rw [abortService_taken first]
    exact congrArg (Prod.mk false) first
  | false =>
    by_cases active : s.block.mapState = .active
    · rw [abortService_active first active]
      exact (shutdownBody_block s.serving).latch
    · rw [abortService_inactive first active]
      have cleaned : (cleanup s.serving).block.latch = s.serving.block.latch := by rw [cleanup_block, cleaned_latch]
      exact cleaned

theorem works_inputs {P : Event → Prop} {s t : State} (works : Works P s t) : t.inputs = s.inputs := by
  obtain ⟨evs, produced, -⟩ := works.run
  exact produced.inputs

theorem step_of_abort {s : State} {rest : List Input} (idle : s.block.abortPending = false)
    (offered : s.inputs = .abort :: rest) : step s = .next (raiseAbort { s with inputs := rest }) := by
  simp only [step, fetch, idle, offered, Bool.false_eq_true, if_false]

/-- From a clear latch only an abort input sets it. -/
theorem step_abortPending_iff {s t : State} (ran : step s = .next t) (idle : s.block.abortPending = false) :
    t.block.abortPending = true ↔ ∃ rest, s.inputs = .abort :: rest := by
  cases stepsTo_of_step ran with
  | service pending => simp [idle] at pending
  | wait _ empty => simp [idle, empty]
  | @command _ rest _ _ _ offered decoded ran =>
    have kept := congrArg Prod.fst (exec_latch ran)
    simp only [Block.latch] at kept
    simp [kept, idle, offered]
  | illegal _ offered undecodable => simp [idle, offered]
  | abort _ offered => simp [raiseAbort, offered]
  | reset _ offered => simp [applyReset, Block.reset, offered]
  | foreignMaster _ offered free => simp [idle, offered]

/-- Only a reset clears `abort_taken`. -/
theorem step_abortTaken {s t : State} (ran : step s = .next t) (taken : s.block.abortTaken = true) :
    t.block.abortTaken = true ∨ ∃ rest, s.inputs = .reset :: rest := by
  cases stepsTo_of_step ran with
  | service pending => exact .inl (congrArg Prod.snd (abortService_latch s))
  | command _ offered decoded ran => exact .inl ((congrArg Prod.snd (exec_latch ran)).trans taken)
  | reset _ offered => exact .inr ⟨_, offered⟩
  | wait | illegal | abort | foreignMaster => exact .inl taken

/-- Settles O51 (R240, R241). -/
theorem abortLatchIsClearedOnlyByServiceOrReset : Obligations.AbortLatchIsClearedOnlyByServiceOrReset := by
  unfold Obligations.AbortLatchIsClearedOnlyByServiceOrReset
  refine ⟨fun s rest idle offered => step_of_abort idle offered, fun s pending => ?_,
    fun i s t ran => Prod.mk.inj (exec_latch ran), fun s t ran pending => ?_, fun s t => step_abortPending_iff,
    fun s t => step_abortTaken⟩
  · rw [raiseAbort, ← pending]
  · rw [step_of_abortPending pending] at ran
    obtain rfl := Host.Outcome.next.inj ran
    obtain ⟨cleared, taken⟩ := Prod.mk.inj (abortService_latch s)
    exact ⟨rfl, cleared, taken, works_inputs (works_abortService s)⟩

/-! ## The shutdown's one wait (R243) -/

theorem ShutDownTo.mapState {b b' : Block} (reached : ShutDownTo b b') : b'.mapState = .shutDown := by
  cases reached with
  | behind | completed => rfl
  | failed =>
    unfold Block.cleaned
    split <;> rfl

/-- A command that emits the neutral wait is a MAP_SHUTDOWN of an active Mapper. -/
theorem exec_neutral {i : Instr} {s t : State} {evs : List Event} (ran : exec i s = .next t)
    (trace : t.trace = s.trace ++ evs) (neutral : .delay .settleNeutral ∈ evs) :
    s.block.mapState = .active ∧ t.block.mapState = .shutDown := by
  have meaning := meaning_of_exec ran
  obtain ⟨evs', produced, permitted⟩ := meaning.emits.run
  obtain rfl := List.append_cancel_left (trace.symm.trans produced.trace)
  cases permitted _ neutral with
  | silent silent other => exact absurd rfl other
  | neutral command active =>
    obtain ⟨b, st, moved, block⟩ := meaning.block
    subst command
    rw [block]
    cases moved with
    | same standing => exact absurd active (standing rfl)
    | shutDown _ _ reached => exact ⟨active, reached.mapState⟩
    | hostOpened command | hostClosed command | constructed command | constructFailed command
    | controllerClosed command | mapperConstructed command | mapperFailed command | recalibrated command =>
      cases command

/-- Settles O52 (R243): the wait of the service and that of MAP_SHUTDOWN need an active Mapper, and ShutDown is kept. -/
theorem shutdownBodyRunsAtMostOnce : Obligations.ShutdownBodyRunsAtMostOnce := by
  unfold Obligations.ShutdownBodyRunsAtMostOnce
  intro s t ran
  constructor
  · intro evs trace neutral
    obtain ⟨inputs, emits⟩ := step_emits ran
    obtain ⟨evs', produced, holds⟩ := emits.run
    obtain rfl := List.append_cancel_left (trace.symm.trans produced.trace)
    obtain ⟨active, first⟩ := holds _ neutral rfl
    refine ⟨active, ?_⟩
    cases stepsTo_of_step ran with
    | service pending =>
      rw [abortService_active (first pending) active]
      exact (shutdownBody_block s.serving).mapState
    | command idle offered decoded ran => exact (exec_neutral ran trace neutral).2
    | wait | abort | foreignMaster =>
      obtain rfl := List.self_eq_append_right.mp trace
      cases neutral
    | illegal =>
      obtain rfl := List.append_cancel_left trace
      simp at neutral
    | reset =>
      obtain rfl := List.append_cancel_left trace
      simp at neutral
  · intro shut
    cases pending : s.block.abortPending with
    | true =>
      rw [step_of_abortPending pending] at ran
      exact .inl (Host.Outcome.next.inj ran ▸ (keepsEnds_abortService s).shutDown shut)
    | false => exact ((step_takes_reset_or_keepsEnds ran).symm.imp (·.shutDown shut) fun reset => ⟨rfl, reset⟩)

/-! ## Idle, reset and the faults (R38, R271; U6, U7) -/

/-- Settles O54 (R38). -/
theorem resetHoldsTheStatedValues : Obligations.ResetHoldsTheStatedValues :=
  ⟨rfl, rfl, rfl, rfl, rfl, rfl, rfl, rfl⟩

/-- Settles O55 (R271): nothing is fetched, so nothing changes. -/
theorem idleBlockWaits : Obligations.IdleBlockWaits := by
  unfold Obligations.IdleBlockWaits
  intro s idle empty
  simp only [step, fetch, idle, empty, Bool.false_eq_true, if_false]

/-- The two inputs without behaviour, where no abort is pending (U6, U7). -/
def Faults (s : State) (f : Fault) : Prop :=
  s.block.abortPending = false ∧
    ((f = .resetInProgress ∧ ∃ frame rest, s.inputs = .resetDuring frame :: rest) ∨
      (f = .secondMaster ∧ s.block.busOwner ≠ .none ∧ ∃ rest, s.inputs = .foreignMaster :: rest))

/-- Every step faults for its reason, or has a next state and no reason to fault. -/
theorem step_faults_or_next (s : State) :
    (∃ f, step s = .fault f ∧ ∀ g, Faults s g ↔ g = f) ∨ ((∃ t, step s = .next t) ∧ ∀ g, ¬ Faults s g) := by
  cases pending : s.block.abortPending with
  | true => exact .inr ⟨⟨_, step_of_abortPending pending⟩, fun g => by simp [Faults, pending]⟩
  | false =>
    cases waiting : s.inputs with
    | nil => exact .inr ⟨⟨s, idleBlockWaits s pending waiting⟩, fun g => by simp [Faults, waiting]⟩
    | cons input rest =>
      cases input with
      | command frame =>
        refine .inr ⟨?_, fun g => by simp [Faults, waiting]⟩
        cases decoded : decode frame with
        | ok i =>
          obtain ⟨t, ran, -⟩ := exec_meaning i { s with inputs := rest }
          exact ⟨t, (step_of_decoded pending waiting decoded).trans ran⟩
        | error e => exact ⟨_, step_undecodable pending waiting decoded⟩
      | abort => exact .inr ⟨⟨_, step_of_abort pending waiting⟩, fun g => by simp [Faults, waiting]⟩
      | reset => exact .inr ⟨⟨_, step_of_reset pending waiting⟩, fun g => by simp [Faults, waiting]⟩
      | resetDuring frame =>
        refine .inl ⟨.resetInProgress, ?_, fun g => by simp [Faults, pending, waiting]⟩
        simp only [step, fetch, pending, waiting, Bool.false_eq_true, if_false]
      | foreignMaster =>
        by_cases free : s.block.busOwner = .none
        · refine .inr ⟨⟨{ s with inputs := rest }, ?_⟩, fun g => by simp [Faults, waiting, free]⟩
          simp only [step, fetch, pending, waiting, free, Bool.false_eq_true, if_false, if_true]
        · refine .inl ⟨.secondMaster, ?_, fun g => by simp [Faults, pending, waiting, free]⟩
          simp only [step, fetch, pending, waiting, free, Bool.false_eq_true, if_false]

/-- Settles O56 (U6, U7). -/
theorem faultsOnlyOutsideTheSpec : Obligations.FaultsOnlyOutsideTheSpec := by
  unfold Obligations.FaultsOnlyOutsideTheSpec
  refine ⟨fun i s => ?_, fun s r refused => ?_, fun s f => (?_ : step s = .fault f ↔ Faults s f)⟩
  · obtain ⟨t, ran, -⟩ := exec_meaning i s
    exact ⟨t, ran⟩
  · obtain ⟨f, faults, -⟩ | ⟨⟨t, ran⟩, -⟩ := step_faults_or_next s
    · cases refused.symm.trans faults
    · cases refused.symm.trans ran
  · obtain ⟨g, faults, reason⟩ | ⟨⟨t, ran⟩, clear⟩ := step_faults_or_next s
    · rw [faults, reason, Host.Outcome.fault.injEq, eq_comm]
    · exact ⟨fun faults => (by cases ran.symm.trans faults), fun reason => absurd reason (clear f)⟩

/-! ## The invariant (R21 to R28, R37) -/

/-- The clauses of the invariant about the block's record. -/
structure BlockInv (p : Params) (b : Block) : Prop where
  notSleeping : b.ctlState ≠ .sleeping
  owned : b.busOwner = .pwc ↔ b.ctlState = .awake
  port : b.busOwner ≠ .none → b.busIndex.toNat < p.busCount
  programmed : b.ctlState = .awake → prescaleValid p b.freq = true ∧ (b.prescale.toNat : Int) = prescaleOf b.freq
  calibrated : b.mapState ≠ .unconstructed → ∀ a,
    (b.cal a).channel.toNat ≤ 15 ∧ calibrationValid p (b.cal a).center (b.cal a).half = true
  active : b.mapState = .active → b.ctlState = .awake ∨ b.ctlState = .closed
  shut : b.mapState = .shutDown → b.ctlState = .closed

theorem Inv.blockInv {s : State} (inv : Inv s) : BlockInv s.params s.block :=
  ⟨inv.notSleeping, inv.owned, inv.port, inv.programmed, inv.calibrated, inv.active, inv.shut⟩

/-- The other clauses are about what events do, whichever they are. -/
theorem Inv.of_emits {P : Event → Prop} {s t : State} (inv : Inv s) (emits : Emits P s t)
    (block : BlockInv s.params t.block) : Inv t := by
  obtain ⟨evs, produced, -⟩ := emits.run
  rw [← produced.params] at block
  refine ⟨?_, ?_, emits.device inv.device, block.notSleeping, block.owned, block.port, block.programmed,
    block.calibrated, block.active, block.shut⟩
  · rw [produced.params]
    exact inv.ports
  · rw [produced.mem]
    exact replay_wf _ _ _ inv.memory

section

variable {p : Params} {b : Block}

theorem BlockInv.lastStatus (inv : BlockInv p b) (st : Status) : BlockInv p { b with lastStatus := st } :=
  ⟨inv.notSleeping, inv.owned, inv.port, inv.programmed, inv.calibrated, inv.active, inv.shut⟩

theorem BlockInv.latched (inv : BlockInv p b) (pending taken : Bool) :
    BlockInv p { b with abortPending := pending, abortTaken := taken } :=
  ⟨inv.notSleeping, inv.owned, inv.port, inv.programmed, inv.calibrated, inv.active, inv.shut⟩

/-- With the handle given back and the controller closed only the calibration clause is left. -/
theorem blockInv_released (calibrated : b.mapState ≠ .unconstructed → ∀ a,
    (b.cal a).channel.toNat ≤ 15 ∧ calibrationValid p (b.cal a).center (b.cal a).half = true) :
    BlockInv p b.released :=
  ⟨nofun, ⟨nofun, nofun⟩, fun held => absurd rfl held, nofun, calibrated, fun _ => .inr rfl, fun _ => rfl⟩

theorem BlockInv.cleaned (inv : BlockInv p b) : BlockInv p b.cleaned := by
  unfold Block.cleaned
  split
  · exact blockInv_released inv.calibrated
  · exact inv

/-- R208: the controller is closed behind the Mapper, or the body closes it, since the controller holds the handle. -/
theorem BlockInv.shutDownTo {b' : Block} (inv : BlockInv p b) (active : b.mapState = .active)
    (reached : ShutDownTo b b') : BlockInv p b' := by
  have calibrated := inv.calibrated (by simp [active])
  cases reached with
  | behind notAwake =>
    have closed := (inv.active active).resolve_left notAwake
    exact ⟨inv.notSleeping, inv.owned, inv.port, inv.programmed, fun _ => calibrated, nofun, fun _ => closed⟩
  | completed awake => exact blockInv_released fun _ => calibrated
  | failed awake =>
    have owner : b.busOwner = .pwc := inv.owned.mpr awake
    simp only [Block.cleaned, owner, if_true]
    exact blockInv_released fun _ => calibrated

end

/-- Every transition of a command keeps the clauses about the block's record. -/
theorem Transition.blockInv {i : Instr} {s : State} {b : Block} (moved : Transition i s b)
    (inv : BlockInv s.params s.block) : BlockInv s.params b := by
  cases moved with
  | same => exact inv
  | hostOpened command free present =>
    have notAwake : s.block.ctlState ≠ .awake := fun awake => by simpa [free] using inv.owned.mpr awake
    exact ⟨inv.notSleeping, ⟨nofun, fun awake => absurd awake notAwake⟩, fun _ => present, inv.programmed,
      inv.calibrated, inv.active, inv.shut⟩
  | hostClosed command owner =>
    have notAwake : s.block.ctlState ≠ .awake := fun awake => by simpa [owner] using inv.owned.mpr awake
    exact ⟨inv.notSleeping, ⟨nofun, fun awake => absurd awake notAwake⟩, fun held => absurd rfl held, inv.programmed,
      inv.calibrated, inv.active, inv.shut⟩
  | constructed command fresh present valid =>
    exact ⟨nofun, ⟨fun _ => rfl, fun _ => rfl⟩, fun _ => present, fun _ => ⟨valid, prescaleByte_toNat valid⟩,
      inv.calibrated, fun _ => .inl rfl, fun shut => by simpa [fresh] using inv.shut shut⟩
  | constructFailed command fresh => exact blockInv_released (b := { s.block with
      busIndex := _, devAddr := _, freq := _, prescale := _, savedMode := _ }) inv.calibrated
  | controllerClosed command awake => exact blockInv_released inv.calibrated
  | mapperConstructed command awake channels valid =>
    refine ⟨inv.notSleeping, inv.owned, inv.port, inv.programmed, fun _ a => ?_, fun _ => .inl awake, nofun⟩
    cases a with
    | steering => exact ⟨channels.1, valid.1⟩
    | throttle => exact ⟨channels.2, valid.2⟩
  | mapperFailed command awake fresh =>
    have owner : s.block.busOwner = .pwc := inv.owned.mpr awake
    simp only [Block.cleaned, owner, if_true]
    exact blockInv_released fun constructed => absurd fresh constructed
  | @recalibrated axis center command active valid =>
    have calibrated := inv.calibrated (by simp [active])
    have records (a : Axis) := setCal_cal_other s.block (a := axisOf axis) (a' := a)
      { s.block.cal (axisOf axis) with center := d6Value center }
    have kept (a : Axis) :
        ((s.block.setCal (axisOf axis) { s.block.cal (axisOf axis) with center := d6Value center }).cal a).channel.toNat
          ≤ 15 ∧ calibrationValid s.params
        ((s.block.setCal (axisOf axis) { s.block.cal (axisOf axis) with center := d6Value center }).cal a).center
        ((s.block.setCal (axisOf axis) { s.block.cal (axisOf axis) with center := d6Value center }).cal a).half
          = true := by
      by_cases which : a = axisOf axis
      · rw [which, setCal_cal]
        exact ⟨(calibrated _).1, valid⟩
      · rw [records a which]
        exact calibrated a
    cases named : axisOf axis with
    | steering =>
      rw [named] at kept
      exact ⟨inv.notSleeping, inv.owned, inv.port, inv.programmed, fun _ => kept, inv.active, inv.shut⟩
    | throttle =>
      rw [named] at kept
      exact ⟨inv.notSleeping, inv.owned, inv.port, inv.programmed, fun _ => kept, inv.active, inv.shut⟩
  | shutDown command active reached => exact inv.shutDownTo active reached

theorem abortService_blockInv {s : State} (inv : BlockInv s.params s.block) :
    BlockInv s.params (abortService s).block := by
  cases first : s.block.abortTaken with
  | true =>
    rw [abortService_taken first]
    exact inv.latched false s.block.abortTaken
  | false =>
    have serving : BlockInv s.params s.serving.block := inv.latched false true
    by_cases active : s.block.mapState = .active
    · rw [abortService_active first active]
      exact (serving.shutDownTo active (shutdownBody_block s.serving)).lastStatus _
    · rw [abortService_inactive first active, abortServed_block, cleanup_block]
      exact serving.cleaned.lastStatus _

theorem blockInv_reset (p : Params) : BlockInv p Block.reset :=
  ⟨nofun, ⟨nofun, nofun⟩, fun held => absurd rfl held, nofun, fun constructed => absurd rfl constructed, nofun, nofun⟩

/-- Settles O57 (R38). -/
theorem resetSatisfiesTheInvariant : Obligations.ResetSatisfiesTheInvariant := by
  have block := blockInv_reset Config.params
  exact ⟨Nat.le_add_left 1 _, rfl, rfl, block.notSleeping, block.owned, block.port, block.programmed, block.calibrated,
    block.active, block.shut⟩

/-- Taking an input off the list touches no clause. -/
theorem Inv.withInputs {s : State} (inv : Inv s) (inputs : List Input) : Inv { s with inputs := inputs } :=
  ⟨inv.ports, inv.memory, inv.device, inv.notSleeping, inv.owned, inv.port, inv.programmed, inv.calibrated, inv.active,
    inv.shut⟩

/-- Settles O58: the transitions of the commands, of the abort service and of reset keep the clauses about the block's
record; the events of a step keep the others. -/
theorem stepKeepsTheInvariant : Obligations.StepKeepsTheInvariant := by
  unfold Obligations.StepKeepsTheInvariant
  intro s t inv ran
  obtain ⟨inputs, emits⟩ := step_emits ran
  have block := inv.blockInv
  suffices kept : BlockInv s.params t.block from (inv.withInputs inputs).of_emits emits kept
  cases stepsTo_of_step ran with
  | service pending => exact abortService_blockInv block
  | wait => exact block
  | command idle offered decoded ran =>
    obtain ⟨b, st, moved, after⟩ := (meaning_of_exec ran).block
    rw [after]
    exact (moved.blockInv block).lastStatus st
  | illegal => exact block.lastStatus _
  | abort => exact block.latched true s.block.abortTaken
  | reset => exact blockInv_reset _
  | foreignMaster => exact block

end Sys2Proof.Machine
end

section
/-! What completed commands leave accepted, the shutdown and the abort service in their cases, and that a set command
depends on nothing else. -/

namespace Sys2Proof.Machine

/-! ## The accepted bytes after completed commands (20_memory.md section 3; log entry 13) -/

theorem cutStatus_eq_ok_iff {evs : List Event} {n : Nat} : cutStatus evs n = .ok ↔ n = evs.length := by
  simp [cutStatus]

/-- A command that answered OK performed all its events. -/
theorem Performs.completed {r : Ran Unit} {s : State} {dev : DevAddr} {evs : List Event}
    (performs : Performs r s dev evs) (ok : (answer r).block.lastStatus = .ok) : Answered s (answer r) evs .ok s.block := by
  obtain ⟨n, -, -, answered, -⟩ := performs.answered
  have status : cutStatus evs n = .ok := by
    rw [answered.block] at ok
    exact ok
  obtain rfl := cutStatus_eq_ok_iff.mp status
  rwa [status, cutAt_length] at answered

theorem Answered.mem {s t : State} {evs : List Event} {st : Status} {b : Block} (answered : Answered s t evs st b) :
    t.mem = replay s.mem b.busIndex evs := by
  rw [Produced.mem answered, replay_append]
  rfl

/-- Acknowledged writes to consecutive registers leave each byte at its register. -/
theorem replay_consecutive (m : Memory) (bus : Byte) (dev : DevAddr) (value : Nat → Byte) {base n k : Nat}
    (fits : base + n ≤ 256) (inside : k < n) :
    (replay m bus ((List.range n).map fun j => .wr dev (BitVec.ofNat 8 (base + j)) (value j) .ack)).read
      (location bus dev (BitVec.ofNat 8 (base + k))) = some (value k) := by
  induction n with
  | zero => cases inside
  | succ n ih =>
    rw [List.range_succ, List.map_append, replay_append]
    simp only [List.map_cons, List.map_nil, replay, read_write]
    split
    · next same =>
      obtain ⟨-, -, register⟩ := location_injective same
      have index := congrArg BitVec.toNat register
      rw [BitVec.toNat_ofNat, BitVec.toNat_ofNat, Nat.mod_eq_of_lt (by omega), Nat.mod_eq_of_lt (by omega)] at index
      rw [Nat.add_left_cancel index]
    · next other =>
      have earlier : k ≠ n := fun last => other (last ▸ rfl)
      exact ih (by omega) (by omega)

/-- The byte of a tick pair at an offset from the base register (R106). -/
def tickByte (on off : Tick) (k : Nat) : Byte :=
  match k with
  | 0 => BitVec.ofNat 8 (on.toNat % 256)
  | 1 => BitVec.ofNat 8 (on.toNat / 256)
  | 2 => BitVec.ofNat 8 (off.toNat % 256)
  | _ => BitVec.ofNat 8 (off.toNat / 256)

theorem tickEvents_eq (dev : DevAddr) (c : Byte) (on off : Tick) : tickEvents dev c on off =
    (List.range 4).map fun k => .wr dev (BitVec.ofNat 8 (0x06 + 4 * c.toNat + k)) (tickByte on off k) .ack := by
  have shift (k : Nat) : 6 + 4 * c.toNat + k = (6 + k) + 4 * c.toNat := Nat.add_right_comm _ _ _
  simp [tickEvents, List.range, List.range.loop, tickByte, shift]

theorem tickOf_low (x : BitVec 16) : BitVec.ofNat 8 ((tickOf x).toNat % 256) = BitVec.ofNat 8 x.toNat := by
  apply BitVec.eq_of_toNat_eq
  rw [tickOf_eq]
  simp only [BitVec.toNat_ofNat]
  omega

theorem tickOf_high (x : BitVec 16) :
    BitVec.ofNat 8 ((tickOf x).toNat / 256) = BitVec.ofNat 8 (x.toNat % 4096 / 256) := by
  rw [tickOf_eq, BitVec.toNat_ofNat]

/-- Settles O48: the four writes of the tick pair are to consecutive registers. -/
theorem completedTicksAreAccepted : Obligations.CompletedTicksAreAccepted := by
  unfold Obligations.CompletedTicksAreAccepted
  intro s t ch on off awake valid ran ok
  obtain rfl := Host.Outcome.next.inj ((exec_pwmSetTicks_of_awake ch on off awake).symm.trans ran)
  have completed := (performs_setChannelTicks valid (tickOf on) (tickOf off) s).completed ok
  rw [completed.mem, tickEvents_eq]
  have byte {k : Nat} (inside : k < 4) := replay_consecutive s.mem s.block.busIndex s.block.devAddr
    (tickByte (tickOf on) (tickOf off)) (base := 0x06 + 4 * ch.toNat) (n := 4) (by omega) inside
  refine ⟨(byte (by decide)).trans ?_, (byte (by decide)).trans ?_, (byte (by decide)).trans ?_,
    (byte (by decide)).trans ?_⟩
  · exact congrArg some (tickOf_low on)
  · exact congrArg some (tickOf_high on)
  · exact congrArg some (tickOf_low off)
  · exact congrArg some (tickOf_high off)

/-- Settles O49: so are the 64 zero writes. -/
theorem completedStopAllLeavesZeroes : Obligations.CompletedStopAllLeavesZeroes := by
  unfold Obligations.CompletedStopAllLeavesZeroes
  intro s t awake ran ok reg low high
  obtain rfl := Host.Outcome.next.inj ((exec_pwmStopAll_of_awake awake).symm.trans ran)
  rw [((performs_stopAllChannels s).completed ok).mem]
  have register : reg = BitVec.ofNat 8 (6 + (reg.toNat - 6)) := by
    apply BitVec.eq_of_toNat_eq
    rw [BitVec.toNat_ofNat]
    omega
  rw [register]
  exact replay_consecutive s.mem s.block.busIndex s.block.devAddr (fun _ => 0x00#8) (by decide) (by omega)

/-! ### A second MAP_STOP (R207) -/

/-- What reads at a location that the events write does not depend on what was there before. -/
theorem replay_read_written (m m' : Memory) (bus : Byte) {evs : List Event} {dev : DevAddr} {reg v : Byte}
    (written : .wr dev reg v .ack ∈ evs) :
    (replay m bus evs).read (location bus dev reg) = (replay m' bus evs).read (location bus dev reg) := by
  induction evs generalizing m m' v with
  | nil => cases written
  | cons e rest ih =>
    by_cases later : ∃ v, .wr dev reg v .ack ∈ rest
    · obtain ⟨v, later⟩ := later
      have tail (m m' : Memory) := ih m m' later
      cases e with
      | wr d r w a => cases a <;> exact tail _ _
      | _ => exact tail m m'
    · obtain rfl := (List.mem_cons.mp written).resolve_right fun mem => later ⟨v, mem⟩
      have untouched : ∀ d r w, .wr d r w .ack ∈ rest → location bus dev reg ≠ location bus d r := by
        intro d r w mem same
        obtain ⟨-, rfl, rfl⟩ := location_injective same
        exact later ⟨w, mem⟩
      simp only [replay, replay_read_other _ _ _ _ untouched, read_write, if_true]

/-- The same events once more leave every byte as it reads. -/
theorem replay_twice_read (m : Memory) (bus : Byte) (evs : List Event) (a : Nat) :
    (replay (replay m bus evs) bus evs).read a = (replay m bus evs).read a := by
  by_cases written : ∃ dev reg v, .wr dev reg v .ack ∈ evs ∧ a = location bus dev reg
  · obtain ⟨dev, reg, v, mem, rfl⟩ := written
    exact replay_read_written _ _ bus mem
  · refine replay_read_other _ _ _ _ fun dev reg v mem same => written ⟨dev, reg, v, mem, same⟩

/-- A MAP_STOP that answers OK did its eight writes. -/
theorem mapStop_completed {s t : State} (channels : ∀ a, (s.block.cal a).channel.toNat ≤ 15)
    (ran : exec .mapStop s = .next t) (ok : t.block.lastStatus = .ok) :
    Answered s t (stopEvents s.block) .ok s.block := by
  by_cases ready : mapperReady s = true
  · obtain rfl := Host.Outcome.next.inj ((exec_mapStop_of_ready ready).symm.trans ran)
    exact (performs_stopAxes channels).completed ok
  · have refused : exec .mapStop s = .next (failWith .invalidState s) := congrArg Host.Outcome.next (if_neg ready)
    obtain rfl := Host.Outcome.next.inj (refused.symm.trans ran)
    cases ok

/-- Settles O42 (R207): both do the events of the same record on the same port. -/
theorem secondStopLeavesTheSameBytes : Obligations.SecondStopLeavesTheSameBytes := by
  unfold Obligations.SecondStopLeavesTheSameBytes
  intro s t u channels first second ok ok'
  have done₁ := mapStop_completed channels first ok
  have block : t.block = { s.block with lastStatus := .ok } := done₁.block
  have done₂ := mapStop_completed (s := t) (block ▸ channels) second ok'
  rw [block] at done₂
  have events : stopEvents { s.block with lastStatus := .ok } = stopEvents s.block := rfl
  refine ⟨?_, fun a => ?_⟩
  · rw [done₂.trace, done₁.trace, List.drop_left, List.drop_left, events]
  · rw [done₂.mem, events, done₁.mem]
    exact replay_twice_read _ _ _ a

/-! ## MAP_SHUTDOWN in its four cases (R208) -/

/-- Settles O43 (R208). -/
theorem shutdownStopsAndCloses : Obligations.ShutdownStopsAndCloses := by
  unfold Obligations.ShutdownStopsAndCloses
  refine ⟨decode_encode .mapShutdown, fun s => ⟨fun shut => ?_, fun fresh => ?_, fun active notAwake => ?_,
    fun active awake owner channels => ?_⟩⟩
  · exact ⟨_, exec_mapShutdown_of_shutDown shut, (Produced.refl s).respond _ none, rfl⟩
  · exact failWith_refuses (exec_mapShutdown_of_unconstructed fresh)
  · exact mapShutdown_behind active notAwake
  · obtain ⟨n, acks, t, bound, cut, attempts, result, produced, granted⟩ := shutdownBody_awake awake owner channels
    have ran := exec_mapShutdown_of_active active
    rw [result] at ran
    exact ⟨n, acks, _, bound, cut, attempts, ran, produced.respond _ none, granted⟩

/-! ## The abort service in its five cases (R241) -/

theorem Produced.abortServed {s t : State} {evs : List Event} {b : Block} (produced : Produced s t evs b)
    (st : Status) :
    Produced s (t.abortServed st) (evs ++ [.abortDone st]) { b with lastStatus := st } := by
  refine produced.trans (Produced.event t _ _ _ rfl rfl rfl rfl rfl ?_ rfl) rfl
  rw [abortServed_block, produced.block]

theorem produced_serving (s : State) : Produced s s.serving [] s.serving.block := (Produced.refl s).withBlock _ rfl

/-- Settles O50 (R241): the two latches first, then the cleanup or the body of the shutdown. -/
theorem abortServiceFollowsItsRule : Obligations.AbortServiceFollowsItsRule := by
  unfold Obligations.AbortServiceFollowsItsRule
  intro s pending
  rw [step_of_abortPending pending]
  have serving := produced_serving s
  refine ⟨fun taken => ?_, fun first inactive other => ?_, fun first inactive owner => ?_,
    fun first active notAwake => ?_, fun first active awake owner channels => ?_⟩
  · rw [abortService_taken taken]
  · rw [abortService_inactive first inactive, cleanup_other s.serving other]
    exact ⟨_, rfl, serving.abortServed .ok⟩
  · obtain ⟨acks, attempts, cleaned⟩ := cleanup_pwc s.serving owner
    rw [abortService_inactive first inactive]
    exact ⟨_, acks, attempts, rfl, (serving.trans cleaned rfl).abortServed .ok⟩
  · rw [abortService_active first active, shutdownBody_closed (s := s.serving) notAwake]
    have shut : Produced s (s.serving.setMap .shutDown) [] _ := serving.withBlock (s.serving.setMap .shutDown).block rfl
    exact ⟨_, rfl, shut.abortServed _⟩
  · obtain ⟨n, acks, t, bound, cut, attempts, result, produced, granted⟩ :=
      shutdownBody_awake (s := s.serving) awake owner channels
    rw [abortService_active first active, result]
    exact ⟨n, acks, _, bound, cut, attempts, rfl, (serving.trans produced rfl).abortServed _, granted⟩

/-! ## A set command depends on nothing else (R209 e) -/

/-- The status a procedure's end is answered with. -/
def Ran.status (r : Ran Unit) : Status :=
  match r with
  | .done _ _ => .ok
  | .raised e _ => .error e

/-- Two procedures from two states did the same: the same events, the same end, and the same environment after it. -/
structure SameRun (s₁ s₂ : State) (r₁ r₂ : Ran Unit) : Prop where
  events : ∃ evs, r₁.state.trace = s₁.trace ++ evs ∧ r₂.state.trace = s₂.trace ++ evs
  status : r₁.status = r₂.status
  env : r₁.state.env = r₂.state.env

section

variable {s₁ s₂ : State}

theorem sameRun_memWrite (dev : DevAddr) (reg v : Byte) (env : s₁.env = s₂.env) :
    SameRun s₁ s₂ (memWrite dev reg v s₁) (memWrite dev reg v s₂) := by
  obtain ⟨t₁, produced₁, -, result₁, env₁⟩ := memWrite_cases dev reg v s₁
  obtain ⟨t₂, produced₂, -, result₂, env₂⟩ := memWrite_cases dev reg v s₂
  rw [env] at produced₁ result₁ env₁
  rw [result₁, result₂]
  split
  · exact ⟨⟨_, produced₁.trace, produced₂.trace⟩, rfl, env₁.trans env₂.symm⟩
  · exact ⟨⟨_, produced₁.trace, produced₂.trace⟩, rfl, env₁.trans env₂.symm⟩

/-- Sequences that do the same part by part. -/
theorem SameRun.andThen {r₁ r₂ : Ran Unit} {next₁ next₂ : Unit → State → Ran Unit} (first : SameRun s₁ s₂ r₁ r₂)
    (second : ∀ t₁ t₂, t₁.env = t₂.env → SameRun t₁ t₂ (next₁ () t₁) (next₂ () t₂)) :
    SameRun s₁ s₂ (r₁.andThen next₁) (r₂.andThen next₂) := by
  cases r₁ with
  | done _ t₁ =>
    cases r₂ with
    | done _ t₂ =>
      obtain ⟨⟨e₁, trace₁, trace₂⟩, -, env⟩ := first
      obtain ⟨⟨e₂, trace₁', trace₂'⟩, status, env'⟩ := second t₁ t₂ env
      have trace₁ : t₁.trace = _ := trace₁
      have trace₂ : t₂.trace = _ := trace₂
      exact ⟨⟨e₁ ++ e₂, by rw [← List.append_assoc, ← trace₁]; exact trace₁',
        by rw [← List.append_assoc, ← trace₂]; exact trace₂'⟩, status, env'⟩
    | raised e t₂ => cases first.status
  | raised e t₁ =>
    cases r₂ with
    | done _ t₂ => cases first.status
    | raised e' t₂ => exact first

theorem sameRun_writeAll (dev : DevAddr) (ws : List (Byte × Byte)) (env : s₁.env = s₂.env) :
    SameRun s₁ s₂ (writeAll dev ws s₁) (writeAll dev ws s₂) := by
  induction ws generalizing s₁ s₂ with
  | nil => exact ⟨⟨[], by simp [writeAll, Ran.state], by simp [writeAll, Ran.state]⟩, rfl, env⟩
  | cons w rest ih => exact (sameRun_memWrite dev w.1 w.2 env).andThen fun _ _ => ih

theorem sameRun_setAxis {a : Axis} (x : Q) (cal : s₁.block.cal a = s₂.block.cal a)
    (freq : s₁.block.freq = s₂.block.freq) (address : s₁.block.devAddr = s₂.block.devAddr) (env : s₁.env = s₂.env) :
    SameRun s₁ s₂ (setAxis a x s₁) (setAxis a x s₂) := by
  simp only [setAxis, setPulseWidth, setChannelTicks, cal, freq, address]
  split
  · exact ⟨⟨[], (List.append_nil _).symm, (List.append_nil _).symm⟩, rfl, env⟩
  · exact sameRun_writeAll _ _ env

/-- So their answers are the same. -/
theorem SameRun.answer {r₁ r₂ : Ran Unit} (same : SameRun s₁ s₂ r₁ r₂) :
    (∃ evs, (Machine.answer r₁).trace = s₁.trace ++ evs ∧ (Machine.answer r₂).trace = s₂.trace ++ evs) ∧
      (Machine.answer r₁).block.lastStatus = (Machine.answer r₂).block.lastStatus ∧
      (Machine.answer r₁).env = (Machine.answer r₂).env := by
  have responds (r : Ran Unit) : Machine.answer r = r.state.respond r.status none := by cases r <;> rfl
  obtain ⟨⟨evs, trace₁, trace₂⟩, status, env⟩ := same
  rw [responds, responds, status]
  refine ⟨⟨evs ++ [.resp r₂.status none], ?_, ?_⟩, rfl, env⟩
  · rw [respond_trace, trace₁, List.append_assoc]
  · rw [respond_trace, trace₂, List.append_assoc]

end

/-- Settles O44 (R209 e, R202). -/
theorem setAxisDependsOnNothingElse : Obligations.SetAxisDependsOnNothingElse := by
  unfold Obligations.SetAxisDependsOnNothingElse
  intro s₁ s₂ t₁ t₂ x a i ready₁ ready₂ cal freq address env ran₁ ran₂
  have meaning {s t : State} (ready : mapperReady s = true) (ran : exec i s = .next t) :
      t = answer (setAxis a (d6Value x) s) := by
    cases a with
    | steering => exact Host.Outcome.next.inj (ran.symm.trans (exec_mapSetSteering_of_ready x ready))
    | throttle => exact Host.Outcome.next.inj (ran.symm.trans (exec_mapSetThrottle_of_ready x ready))
  rw [meaning ready₁ ran₁, meaning ready₂ ran₂]
  exact (sameRun_setAxis (d6Value x) cal freq address env).answer

end Sys2Proof.Machine
end
